-- ==== Sys2Proof/Word.lean ====
section
/-! DEFINITION. The words of the part: what the spec treats as bits (R192, table 11.2). Counts, instants and
indices are natural numbers or integers; a value becomes a word only where software or the bus sees it as one. -/

namespace Sys2Proof

/-- A byte of a record. -/
abbrev Byte := BitVec 8

/-- A register, and an address of the bus master port (table 0.5: 32-bit address and data). -/
abbrev Word := BitVec 32

/-- A 32-byte ring record, byte i at bits 8i to 8i+7 (R192: little-endian). -/
abbrev Record := BitVec 256

/-- A 64-byte action descriptor, byte i at bits 8i to 8i+7 (R192: little-endian). -/
abbrev Descriptor := BitVec 512

end Sys2Proof
end

