-- ==== Sys2Proof/Config.lean ====
section
/-! DEFINITION. What revision 1 silicon fixes (sizes, ranges, identification), and the two orders that the spec
leaves open: that in which the records of one event are accepted, and that of a range end and the landing second of the
same instant. -/

namespace Sys2Proof.Config

/-- One second in fine units (table 0.3). -/
abbrev secondFU : Nat := 1048576

/-- One minute in fine units (R81). -/
abbrev minuteFU : Nat := 62914560

/-- The last mono instant, 2^52 - 1 (table 0.3, R55). -/
abbrev monoLast : Nat := 4503599627370495

/-- The last wall instant, 3,155,760,000 x 2^20 - 1 (table 0.3, R69). -/
abbrev wallLast : Nat := 3309054197759999

/-- The largest delay or repeat period, 2^44 (table 0.3). -/
abbrev delayMax : Nat := 17592186044416

/-- The smallest repeat period (table 0.3, R10). -/
abbrev periodMin : Nat := 1024

/-- The largest pulse or space width, 2^24 - 1 (R12). -/
abbrev widthMax : Nat := 16777215

/-- The largest value of a 32-bit saturating field (R14, R37). -/
abbrev max32 : Nat := 4294967295

/-- The largest value of a 16-bit saturating field (R44, R182). -/
abbrev max16 : Nat := 65535

/-- The trim's range is from -262,144 to this (R56). -/
abbrev trimMax : Int := 262144

/-- A cycle is inserted or swallowed when the residue reaches this, 2^26 (R53). -/
abbrev residueLimit : Int := 67108864

/-- The report queue holds at most this many records (R180). -/
abbrev queueRoom : Nat := 32

/-- A channel's waiting queue holds at most this many fire instances (R109). -/
abbrev waitingRoom : Nat := 8

/-- The slew and the moderation timer count in this many fine units (R78, R189). -/
abbrev stepFU : Nat := 1024

/-- The largest magnitude of an ADJUST_TIME, 2^30 (R76). -/
abbrev adjustMax : Nat := 1073741824

/-- What DEV_ID reads: vendor code 0x0D48, part code 0x0612 (R148). -/
abbrev devId : Word := 0x0D480612

/-- What DEV_REV reads: revision 1 (R148). -/
abbrev devRev : Word := 1

/-- FREE VALUE (log entry 5). The spec lets the report queue accept the records offered in one event "in either
order" (R167, R180). This names the place, counted among the places then open, at which a completion is accepted;
its argument is the count of places chosen so far. It has no body: no proof can know an order. -/
opaque acceptPosition : Nat → Nat

/-- FREE VALUE (log entry 28). A wall change that sets wall time to the last FU of the range brings a landing second and the
range end at one instant, and the spec lets either come first (R106). This names whether the range end does; its argument is
the count of choices made so far. It has no body: no proof can know the order. -/
opaque rangeEndFirst : Nat → Bool

end Sys2Proof.Config
end

