-- ==== Sys2Proof/Syntax.lean ====
section
/-! DEFINITION. The commands of the block: one constructor of `Instr` for each row of spec/opcode_table.json, with
the operands that the part's surroundings give at that step (a word written, the bytes a read returned, the number
of an input or channel). The nineteen commands of the command ring have no operand here: theirs are in the record
that the command unit holds (R166). -/

namespace Sys2Proof

/-- The level of a line (table 11.1). -/
inductive Level where
  | low
  | high
deriving DecidableEq, Repr

/-- How a read of `n` bits on the bus master port ends: with a bus error, or with the bytes read (R162). -/
inductive BusEnd (n : Nat) where
  | error
  | data (bytes : BitVec n)
deriving DecidableEq, Repr

/-- A step of the part, whole and indivisible. Each constructor's docstring gives its row. -/
inductive Instr where
  /-- NOP (R168) -/
  | nop
  /-- BAD_OPCODE (R168) -/
  | badOpcode
  /-- DEFINE_ACTION (R171) -/
  | defineAction
  /-- DESCRIPTOR_READ_END (R172): how the 64-byte read ended -/
  | descriptorReadEnd (ending : BusEnd 512)
  /-- ARM (R15) -/
  | arm
  /-- DISARM (R16) -/
  | disarm
  /-- RELEASE (R18) -/
  | release
  /-- QUERY_ACTION (R19) -/
  | queryAction
  /-- SUSPEND (R31) -/
  | suspend
  /-- RESUME (R32) -/
  | resume
  /-- READ_TIME (R72) -/
  | readTime
  /-- SET_TIME (R74) -/
  | setTime
  /-- STEP_TIME (R75) -/
  | stepTime
  /-- ADJUST_TIME (R76) -/
  | adjustTime
  /-- SNAP_TIME (R82) -/
  | snapTime
  /-- CONFIG_REFERENCE (R65) -/
  | configReference
  /-- CONFIG_CHANNEL (R127) -/
  | configChannel
  /-- FLUSH_CHANNEL (R128) -/
  | flushChannel
  /-- CHANNEL_STATUS (R129) -/
  | channelStatus
  /-- CONFIG_CAPTURE (R145) -/
  | configCapture
  /-- CAPTURE_STATUS (R146) -/
  | captureStatus
  /-- FETCH_START (R160) -/
  | fetchStart
  /-- FETCH_END (R161): how the 32-byte read ended -/
  | fetchEnd (ending : BusEnd 256)
  /-- REPORT_WRITE_START (R184) -/
  | reportWriteStart
  /-- REPORT_WRITE_END (R185): whether the write ended with a bus error -/
  | reportWriteEnd (busError : Bool)
  /-- ENABLE_WRITE_1 (R152): CONTROL written with ENABLE 1 and SOFT_RESET 0 -/
  | enableWrite1
  /-- ENABLE_WRITE_0 (R154): CONTROL written with ENABLE 0 and SOFT_RESET 0 -/
  | enableWrite0
  /-- SOFT_RESET (R163): CONTROL written with SOFT_RESET 1; the ENABLE bit of that write -/
  | softReset (enable : Bool)
  /-- CR_TAIL_WRITE (R158): the word written -/
  | crTailWrite (value : Word)
  /-- RR_HEAD_WRITE (R159): the word written -/
  | rrHeadWrite (value : Word)
  /-- INT_STATUS_WRITE (R187): the word written -/
  | intStatusWrite (value : Word)
  /-- INT_ENABLE_WRITE (R188): the word written -/
  | intEnableWrite (value : Word)
  /-- INT_MODERATION_WRITE (R190): the word written -/
  | intModerationWrite (value : Word)
  /-- REGISTER_WRITE (R148): the offset in the register window and the word written -/
  | registerWrite (offset : Nat) (value : Word)
  /-- POWER_ON_RESET (R164): the levels of CAP0 to CAP3 sampled at the end of the reset (R147) -/
  | powerOnReset (lines : Vector Level 4)
  /-- REF_EDGE (R57) -/
  | refEdge
  /-- WINDOW_CLOSE (R57) -/
  | windowClose
  /-- TRANSITION (R134): the capture input whose sampled level changed -/
  | transition (input : Fin 4)
  /-- ACCEPTANCE (R135): the capture input whose candidate is accepted -/
  | acceptance (input : Fin 4)
  /-- EXPIRY (R35) -/
  | expiry
  /-- RUNNING_SECOND_BOUNDARY (R86) -/
  | runningSecondBoundary
  /-- SLEW_STEP (R78) -/
  | slewStep
  /-- WAIT_END (R85) -/
  | waitEnd
  /-- RANGE_END (R88) -/
  | rangeEnd
  /-- PHASE_END (R117): the channel whose phase ends -/
  | phaseEnd (channel : Fin 8)
  /-- MODERATION_EXPIRY (R189) -/
  | moderationExpiry
  /-- MONO_EXHAUSTION (R55) -/
  | monoExhaustion
  /-- FINE_UNIT (R54) -/
  | fineUnit
deriving DecidableEq, Repr

end Sys2Proof
end

