-- ==== Sys2Proof/Machine/State.lean ====
section
/-! DEFINITION. The state of the TS-612, block by block (table 0.1), as plain data, and its values after reset.
Instants, counts and indices are natural numbers, signed counts are integers; the state's invariants bound them.
The report records and the completion results are kept as the fields the rules name; Formats.lean gives their bytes. -/

namespace Sys2Proof.Machine

/-! ### Names shared by several blocks -/

/-- A slot number of the action table (R1). -/
abbrev SlotId := Fin 256

/-- A handle: a slot and a generation (00, "Handles"). -/
structure Handle where
  slot : SlotId
  gen  : Fin 256
deriving DecidableEq, Repr

/-- The two clocks on which an action may be due. -/
inductive Clock where
  | mono
  | wall
deriving DecidableEq, Repr

/-- A due: an instant and its clock (table 1.5). -/
structure Due where
  clock   : Clock
  instant : Nat
deriving DecidableEq, Repr

/-! ### The action table (Chapter 1) -/

/-- Slot states (table 1.1). -/
inductive SlotState where
  | free | idle | pending | watching | waiting
deriving DecidableEq, Repr

/-- What an ON_CAPTURE action does when its run ends (R142). -/
inductive Rearm where
  | once | everyEdge
deriving DecidableEq, Repr

/-- The day field of a pattern (R9). -/
inductive DayField where
  | any
  | last
  | day (n : Nat)
deriving DecidableEq, Repr

/-- The trigger data of a PATTERN action (R9, R95); `none` is ANY. -/
structure Pattern where
  second   : Option Nat
  minute   : Option Nat
  hour     : Option Nat
  day      : DayField
  months   : BitVec 12
  weekdays : BitVec 7
deriving DecidableEq, Repr

/-- The five trigger kinds with their data (table 1.3). -/
inductive Trigger where
  | atMono (due : Nat)
  | atWall (due : Nat)
  | after (delay : Nat)
  | pattern (p : Pattern)
  | onCapture (input : Fin 4) (delay : Nat) (rearm : Rearm)
deriving DecidableEq, Repr

/-- The late policy (R11, R37). -/
inductive LatePolicy where
  | fireLate | skip
deriving DecidableEq, Repr

/-- The busy policy (table 6.2). -/
inductive BusyPolicy where
  | queue | replace | flush | drop
deriving DecidableEq, Repr

/-- The operation on a line (R12). -/
inductive Operation where
  | setHigh
  | setLow
  | toggle
  | train (pulse space count : Nat)
deriving DecidableEq, Repr

/-- Fields 7 and 8 of an action, which are present together or absent together (R12). -/
structure Output where
  channel   : Fin 8
  operation : Operation
deriving DecidableEq, Repr

/-- A defined action: the validated fields of its descriptor (table 1.2). -/
structure Action where
  trigger     : Trigger
  period      : Option Nat
  count       : Nat
  lateLimit   : Nat
  latePolicy  : LatePolicy
  output      : Option Output
  busy        : BusyPolicy
  fireReports : Bool
  doneReports : Bool
  autoRelease : Bool
  tag         : Word
  followOn    : Option Handle
deriving DecidableEq, Repr

/-- The remaining count of a run (table 1.5). -/
inductive Remaining where
  | unlimited
  | limited (n : Nat)
deriving DecidableEq, Repr

/-- What a slot holds while it is not FREE: the defined action, the state, the run-time fields (R1, R14). -/
structure Held where
  action    : Action
  state     : SlotState
  nextDue   : Option Due
  remaining : Remaining
  fired     : Nat
  lastFired : Option Nat
deriving DecidableEq, Repr

/-- A slot: its generation and, unless it is FREE, what it holds (R1). -/
structure Slot where
  gen  : Fin 256
  held : Option Held
deriving DecidableEq, Repr

/-! ### The scheduler (Chapters 2, 5 and 7) -/

/-- Scheduler states (R30). -/
inductive SchedState where
  | running | suspended | halted
deriving DecidableEq, Repr

/-- A pattern occurrence that an evaluation has found and that has still to be taken (R98): its slot, the wall second it
matched, and its lateness, wall now at the evaluation minus the start of that second (R102). -/
structure Match where
  slot     : SlotId
  second   : Nat
  lateness : Nat
deriving DecidableEq, Repr

/-- The scheduler: its state and its collections of slots. -/
structure Sched where
  state    : SchedState
  /-- mono due list, head first (R26) -/
  monoDue  : List SlotId
  /-- wall due list, head first (R26) -/
  wallDue  : List SlotId
  /-- pattern set, in ascending order, since the set has no order of its own (R94) -/
  patterns : List SlotId
  /-- capture-wait sets, one per input, front first (R139) -/
  waits    : Vector (List SlotId) 4
  /-- the slots that have had an occurrence taken at the present mono instant (R36, R105) -/
  taken    : List SlotId
  /-- the pattern occurrences found and not yet taken (R98, R106) -/
  found    : List Match
deriving DecidableEq, Repr

/-! ### The timebase (Chapter 3) -/

/-- Discipline states (table 3.1). -/
inductive DiscState where
  | off | acquire | locked | holdover
deriving DecidableEq, Repr

/-- The discipline record (table 3.1), with the mono instant at which the latest close of a LOCKED window entered HOLDOVER,
by which an edge of that same instant is known to be stray (R62, log entry 26). -/
structure Discipline where
  state      : DiscState
  window     : Nat
  lockCount  : Nat
  missLimit  : Nat
  expect     : Option Nat
  good       : Nat
  miss       : Nat
  lastError  : Int
  holdoverAt : Option Nat
deriving DecidableEq, Repr

/-- The timebase: mono count, exhaustion, trim, residue, the length in CLKIN cycles of the fine unit in progress,
and the discipline (R53 to R57). -/
structure Timebase where
  mono       : Nat
  exhausted  : Bool
  trim       : Int
  residue    : Int
  unitLength : Nat
  disc       : Discipline
deriving DecidableEq, Repr

/-! ### The wall clock (Chapter 4) -/

/-- Wall states (R69). -/
inductive WallState where
  | unset | running | slewing
deriving DecidableEq, Repr

/-- The slew of an ADJUST_TIME in flight (R77). -/
structure Slew where
  delta     : Int
  remainder : Int
  applied   : Int
  nextStep  : Nat
deriving DecidableEq, Repr

/-- The unit of a snap (R81). -/
inductive SnapUnit where
  | second | minute
deriving DecidableEq, Repr

/-- The SNAP_TIME that waits for a reference edge (R83). -/
structure Snap where
  unit    : SnapUnit
  waitEnd : Nat
deriving DecidableEq, Repr

/-- The wall clock record (table 4.1), with the whole second in which wall time lay at the mono instant before,
which a running second boundary is judged against (R86). -/
structure Wall where
  state      : WallState
  offset     : Int
  slew       : Option Slew
  snap       : Option Snap
  lastSecond : Nat
deriving DecidableEq, Repr

/-! ### The output channels (Chapter 6) -/

/-- A fire instance: the copy of what one firing is to do (R42). -/
structure FireInst where
  handle      : Handle
  tag         : Word
  output      : Option Output
  busy        : BusyPolicy
  fireReports : Bool
  doneReports : Bool
  followOn    : Option Handle
  fireInstant : Nat
  lateness    : Nat
deriving DecidableEq, Repr

/-- Channel states (R107). -/
inductive ChanState where
  | disabled | idle | pulse | space
deriving DecidableEq, Repr

/-- The running instance of a channel (R107). -/
structure Running where
  inst     : FireInst
  start    : Nat
  pulses   : Nat
  phaseEnd : Nat
deriving DecidableEq, Repr

/-- The channel record (table 6.1). The line level is computed (R108). -/
structure Channel where
  state   : ChanState
  level   : Level
  parked  : Level
  running : Option Running
  queue   : List FireInst
deriving DecidableEq, Repr

/-! ### The capture inputs (Chapter 7) -/

/-- Edge selection (R136). -/
inductive EdgeSelect where
  | rising | falling | both
deriving DecidableEq, Repr

/-- The polarity of an edge (R134). -/
inductive Polarity where
  | rising | falling
deriving DecidableEq, Repr

/-- A transition awaiting acceptance (R135). -/
structure Candidate where
  level    : Level
  instant  : Nat
  acceptAt : Nat
deriving DecidableEq, Repr

/-- The latest accepted edge (R137). -/
structure LastEdge where
  instant  : Nat
  polarity : Polarity
deriving DecidableEq, Repr

/-- The capture input record (table 7.1), with the mono instant at which the line was found at its level, by its latest
transition or by the sample at a reset's end: the line is sampled once per fine unit, so that instant has no further
transition (R134, log entry 21). -/
structure Capture where
  on        : Bool
  select    : EdgeSelect
  filter    : Nat
  report    : Bool
  line      : Level
  filtered  : Level
  candidate : Option Candidate
  count     : Nat
  last      : Option LastEdge
  movedAt   : Option Nat
deriving DecidableEq, Repr

/-! ### Reports (Chapters 9 and 10, formats in Chapter 11) -/

/-- Completion statuses (table 9.3). -/
inductive Status where
  | ok | badOpcode | badField | badHandle | wrongState | tableFull | busy | wallUnset | noReference
  | descriptorFault | superseded | cancelled | timeout
deriving DecidableEq, Repr

/-- Admission outcomes (R42, R110). -/
inductive Admission where
  | started | queued | dropped | channelOff | noChannel
deriving DecidableEq, Repr

/-- End reasons of an instance (table 6.3). -/
inductive EndReason where
  | completed | aborted | discarded | withdrawn
deriving DecidableEq, Repr

/-- Outcomes of a follow-on request (R20). -/
inductive FollowOutcome where
  | none | armed | stale | notIdle | notAfter
deriving DecidableEq, Repr

/-- Calendar fields of a wall instant (R71); the weekday runs 1 (Monday) to 7 (Sunday). -/
structure Calendar where
  year    : Nat
  month   : Nat
  day     : Nat
  hour    : Nat
  minute  : Nat
  second  : Nat
  weekday : Nat
deriving DecidableEq, Repr

/-- What QUERY_ACTION reports (R19). -/
structure QueryResult where
  handle    : Handle
  state     : SlotState
  nextDue   : Option Due
  lastFired : Option Nat
  fired     : Nat
  remaining : Remaining
  /-- waiting instances, and whether the running one carries the handle; absent for an event-only action -/
  counts    : Option (Nat × Bool)
deriving DecidableEq, Repr

/-- What READ_TIME reports (R72); wall time and calendar are absent together. -/
structure TimeResult where
  mono  : Nat
  wall  : Option Nat
  state : WallState
  disc  : DiscState
deriving DecidableEq, Repr

/-- What CHANNEL_STATUS reports (R129). -/
structure ChannelResult where
  enabled : Bool
  state   : ChanState
  level   : Level
  parked  : Level
  line    : Level
  running : Option Handle
  waiting : List Handle
deriving DecidableEq, Repr

/-- The results a completion carries (R169, table 11.6). -/
inductive Results where
  /-- no results: every byte of the results is 0 -/
  | none
  /-- DEFINE_ACTION answered OK -/
  | defined (handle : Handle)
  /-- a handle command that names no other result for its status -/
  | handleOnly (handle : Handle)
  /-- a handle command answered WRONG_STATE, with the state found -/
  | stateFound (handle : Handle) (state : SlotState)
  /-- ARM answered OK, with the state entered and, when PENDING, the due -/
  | armed (handle : Handle) (state : SlotState) (due : Option Due)
  /-- DISARM answered OK, with the state found and the instances withdrawn -/
  | disarmed (handle : Handle) (state : SlotState) (waiting running : Nat)
  /-- QUERY_ACTION answered OK -/
  | queried (q : QueryResult)
  /-- READ_TIME -/
  | time (t : TimeResult)
  /-- SET_TIME, STEP_TIME or SNAP_TIME answered OK: the new wall instant and the change, if there is one -/
  | wallChanged (wall : Nat) (change : Option Int)
  /-- SNAP_TIME answered TIMEOUT, CANCELLED or BAD_FIELD: the no-change bit alone -/
  | noChange
  /-- ADJUST_TIME answered OK, SUPERSEDED or CANCELLED: the amount applied -/
  | applied (amount : Int)
  /-- CONFIG_REFERENCE answered OK -/
  | reference (found set : DiscState) (trim : Int)
  /-- CONFIG_CHANNEL answered OK or BUSY -/
  | channelSet (found : ChanState) (aborted discarded : Nat) (level line : Level)
  /-- FLUSH_CHANNEL answered OK -/
  | channelFlushed (aborted discarded : Nat)
  /-- CHANNEL_STATUS answered OK -/
  | channelRead (c : ChannelResult)
  /-- CONFIG_CAPTURE answered OK: the mode, the line level, the edge count and the last edge found -/
  | captureSet (on : Bool) (line : Level) (count : Nat) (last : Option LastEdge)
  /-- CAPTURE_STATUS answered OK: the line level, the edge count, the last edge, the slots waiting -/
  | captureRead (line : Level) (count : Nat) (last : Option LastEdge) (waiting : Nat)
deriving DecidableEq, Repr

/-- A completion (R169). -/
structure Completion where
  tag       : BitVec 16
  opcode    : Byte
  ringIndex : Nat
  status    : Status
  fieldNo   : Option Nat
  results   : Results
deriving DecidableEq, Repr

/-- What FIRE and SKIP reports have in common (R44, R45). -/
structure Occurrence where
  handle    : Handle
  tag       : Word
  due       : Due
  instant   : Nat
  lateness  : Nat
  missed    : Nat
  remaining : Remaining
  last      : Bool
deriving DecidableEq, Repr

/-- A DONE report (R125, R43). -/
structure DoneReport where
  handle   : Handle
  tag      : Word
  channel  : Option (Fin 8)
  reason   : EndReason
  start    : Option Nat
  ending   : Nat
  pulses   : Nat
  followOn : FollowOutcome
deriving DecidableEq, Repr

/-- A CAPTURE report (R138). -/
structure CaptureReport where
  input    : Fin 4
  polarity : Polarity
  instant  : Nat
  wall     : Option Nat
  number   : Nat
deriving DecidableEq, Repr

/-- A REFERENCE report (R66). -/
structure ReferenceReport where
  old       : DiscState
  new       : DiscState
  trim      : Int
  lastError : Int
  instant   : Nat
deriving DecidableEq, Repr

/-- The report kinds with their fields (table 10.2). -/
inductive Report where
  | completion (c : Completion)
  | fire (o : Occurrence) (late : Bool) (admission : Admission)
  | skip (o : Occurrence)
  | done (d : DoneReport)
  | capture (c : CaptureReport)
  | reference (r : ReferenceReport)
  | wallLost (moved : Nat) (final instant : Nat)
  | overflow (lost instant : Nat)
deriving DecidableEq, Repr

/-- The write of the front record in flight on the bus master port (R184): its address, the ring entry, the phase
and the 32 bytes it carries. -/
structure ReportWrite where
  address : Word
  entry   : Nat
  phase   : Bool
  bytes   : Record
deriving DecidableEq, Repr

/-- The report queue record (table 10.1). -/
structure ReportQueue where
  records      : List Report
  reservations : Nat
  lost         : Nat
  write        : Option ReportWrite
deriving DecidableEq, Repr

/-! ### The interrupt unit (section 10.6) -/

/-- One bit for each interrupt cause (table 11.2). -/
structure IrqBits where
  reports : Bool
  loss    : Bool
  fault   : Bool
deriving DecidableEq, Repr

/-- The interrupt unit record (table 10.3). -/
structure Irq where
  status    : IrqBits
  enable    : IrqBits
  threshold : Byte
  time      : BitVec 16
  count     : Nat
  start     : Option Nat
deriving DecidableEq, Repr

/-! ### The port controller (Chapter 8) and the command unit (Chapter 9) -/

/-- Port states (table 8.2). -/
inductive PortState where
  | disabled | running | draining | halted
deriving DecidableEq, Repr

/-- CONFIG_ERROR (R150). -/
inductive ConfigError where
  | none | crBase | crSize | rrBase | rrSize
deriving DecidableEq, Repr

/-- FAULT_CODE (R156). -/
inductive FaultCode where
  | none | fetchError | reportWriteError | tailRange | headRange | timelineEnd
deriving DecidableEq, Repr

/-- The port controller's state (sections 8.1 to 8.5). -/
structure Port where
  state       : PortState
  crBase      : Word
  crSize      : Word
  crTail      : Nat
  crHead      : Nat
  rrBase      : Word
  rrSize      : Word
  rrHead      : Nat
  rrTail      : Nat
  phase       : Bool
  configError : ConfigError
  faultCode   : FaultCode
  faultAddr   : Word
  /-- the fetch in flight, by the address it reads (R160) -/
  fetch       : Option Word
deriving DecidableEq, Repr

/-- The command in hand: the copy of its record and the ring index it was fetched from (R166). -/
structure InHand where
  record : Record
  index  : Nat
deriving DecidableEq, Repr

/-- Command unit states, each with the command it holds (R165). -/
inductive CmdState where
  | idle
  | holding (c : InHand)
  | reading (c : InHand)
deriving DecidableEq, Repr

/-- A deferred command: its tag and its ring index (R173). -/
structure Deferred where
  tag   : BitVec 16
  index : Nat
deriving DecidableEq, Repr

/-- The command unit record (table 9.1). -/
structure CmdUnit where
  state  : CmdState
  adjust : Option Deferred
  snap   : Option Deferred
deriving DecidableEq, Repr

/-! ### The whole part -/

/-- The state of the TS-612, one field per block of table 0.1, and two fields of the model's own: the count of free
orders of acceptance used (log entry 5) and the queue of commands that wait, first in, first out (log entry 1). -/
structure State where
  port     : Port
  cmd      : CmdUnit
  reports  : ReportQueue
  irq      : Irq
  slots    : Vector Slot 256
  sched    : Sched
  time     : Timebase
  wall     : Wall
  chans    : Vector Channel 8
  caps     : Vector Capture 4
  choices  : Nat
  pending  : List Instr
deriving DecidableEq, Repr

/-- Why the model stops. -/
inductive Fault where
  /-- Raised by REGISTER_WRITE at an offset at which table 11.2 has no register. Safe: the model stops where the
  spec says nothing (log entry 17). -/
  | noSuchRegister (offset : Nat)
deriving DecidableEq, Repr

/-- Why the model gives a command no meaning. -/
inductive Refusal where
  /-- Raised by an arm of exec whose row has no meaning yet; no arm raises it now. Safe. -/
  | notModelled (mnemonic : String)
deriving DecidableEq, Repr

/-! ### One setter per block: every change of the state goes through them -/

def State.setPort (s : State) (x : Port) : State := { s with port := x }
def State.setCmd (s : State) (x : CmdUnit) : State := { s with cmd := x }
def State.setReports (s : State) (x : ReportQueue) : State := { s with reports := x }
def State.setIrq (s : State) (x : Irq) : State := { s with irq := x }
def State.setSlots (s : State) (x : Vector Slot 256) : State := { s with slots := x }
def State.setSched (s : State) (x : Sched) : State := { s with sched := x }
def State.setTime (s : State) (x : Timebase) : State := { s with time := x }
def State.setWall (s : State) (x : Wall) : State := { s with wall := x }
def State.setChans (s : State) (x : Vector Channel 8) : State := { s with chans := x }
def State.setCaps (s : State) (x : Vector Capture 4) : State := { s with caps := x }
def State.setChoices (s : State) (x : Nat) : State := { s with choices := x }
def State.setPending (s : State) (x : List Instr) : State := { s with pending := x }

/-! ### The values after a power-on reset -/

/-- The port controller after either reset (R163, R164). -/
def Port.reset : Port :=
  { state := .disabled, crBase := 0, crSize := 0, crTail := 0, crHead := 0, rrBase := 0, rrSize := 0, rrHead := 0,
    rrTail := 0, phase := true, configError := .none, faultCode := .none, faultAddr := 0, fetch := none }

/-- The command unit after either reset (R178). -/
def CmdUnit.reset : CmdUnit := { state := .idle, adjust := none, snap := none }

/-- The report queue after either reset (R186). -/
def ReportQueue.reset : ReportQueue := { records := [], reservations := 0, lost := 0, write := none }

/-- No interrupt bit set. -/
def IrqBits.clear : IrqBits := { reports := false, loss := false, fault := false }

/-- The interrupt unit after a power-on reset (R191). -/
def Irq.reset : Irq :=
  { status := .clear, enable := .clear, threshold := 0, time := 0, count := 0, start := none }

/-- A slot after a power-on reset: FREE with generation 0 (R23). -/
def Slot.reset : Slot := { gen := 0, held := none }

/-- The scheduler after a power-on reset: RUNNING with its collections empty (R30, R52). -/
def Sched.reset : Sched :=
  { state := .running, monoDue := [], wallDue := [], patterns := [], waits := Vector.replicate 4 [], taken := [],
    found := [] }

/-- The discipline record after a power-on reset (table 3.1). -/
def Discipline.reset : Discipline :=
  { state := .off, window := 1024, lockCount := 4, missLimit := 3, expect := none, good := 0, miss := 0, lastError := 0,
    holdoverAt := none }

/-- The timebase after a power-on reset (R67); the first fine unit has 16 cycles, the trim being 0 (R53). -/
def Timebase.reset : Timebase :=
  { mono := 0, exhausted := false, trim := 0, residue := 0, unitLength := 16, disc := .reset }

/-- The wall clock after a power-on reset (R93). -/
def Wall.reset : Wall := { state := .unset, offset := 0, slew := none, snap := none, lastSecond := 0 }

/-- A channel after a power-on reset (R133). -/
def Channel.reset : Channel := { state := .disabled, level := .low, parked := .low, running := none, queue := [] }

/-- A capture input after a power-on reset at whose end its line is at `line` (R147). The line has been sampled at that end,
which is mono instant 0 (R54, R134), so that no transition comes before instant 1. -/
def Capture.reset (line : Level) : Capture :=
  { on := false, select := .rising, filter := 0, report := false, line := line, filtered := line,
    candidate := none, count := 0, last := none, movedAt := some 0 }

/-- The part after a power-on reset at whose end the capture lines are at `lines`; the model's own fields are
given. -/
def State.powerOn (lines : Vector Level 4) (choices : Nat) (pending : List Instr) : State :=
  { port := .reset, cmd := .reset, reports := .reset, irq := .reset, slots := Vector.replicate 256 .reset,
    sched := .reset, time := .reset, wall := .reset, chans := Vector.replicate 8 .reset,
    caps := lines.map Capture.reset, choices := choices, pending := pending }

/-- The part right after reset. DESIGN CHOICE (log entry 10): the four capture lines are LOW then; the spec takes
them as sampled. -/
def State.reset : State := State.powerOn (Vector.replicate 4 .low) 0 []

end Sys2Proof.Machine
end

