-- ==== Sys2Proof/Machine/Channel.lean ====
section
/-! DEFINITION. What one output channel does (Chapter 6): its line, the start, phase ends and early ends of fire
instances, and admission. Every operation takes the mono instant at which it is taken and answers the channel after
it, with the DONE reports it offers, in the order in which it offers them. -/

namespace Sys2Proof

/-- The inverse of a level. -/
def Level.flip : Level → Level
  | .low => .high
  | .high => .low

/-- The level after a level operation starts (R116); a train leaves it as it is. -/
def Level.after (l : Level) : Option Machine.Operation → Level
  | some .setHigh => .high
  | some .setLow => .low
  | some .toggle => l.flip
  | some (.train ..) => l
  | none => l

namespace Machine

/-- Whether the channel is enabled (R107). -/
def Channel.enabled (c : Channel) : Bool := c.state != .disabled

/-- The level at which the line is driven (R108). -/
def Channel.line (c : Channel) : Level :=
  match c.state with
  | .disabled => c.parked
  | .idle => c.level
  | .pulse => c.level.flip
  | .space => c.level

/-- The handle of the running instance, if one runs. -/
def Channel.runningHandle (c : Channel) : Option Handle := c.running.map fun r => r.inst.handle

/-- How many waiting instances carry a handle in full (R19, R109). -/
def Channel.waitingOf (c : Channel) (h : Handle) : Nat := c.queue.countP fun i => i.handle == h

/-- Whether the running instance carries a handle in full (R19, R109). -/
def Channel.runs (c : Channel) (h : Handle) : Bool := c.runningHandle == some h

/-- Whether a follow-on outcome calls for a DONE report whatever the report flags (R125). -/
def FollowOutcome.failed : FollowOutcome → Bool
  | .stale | .notIdle | .notAfter => true
  | .none | .armed => false

/-- The DONE report of an ended instance, if its conditions call for one (R43, R125). -/
def FireInst.done (i : FireInst) (channel : Option (Fin 8)) (reason : EndReason) (start : Option Nat) (ending pulses : Nat)
    (followOn : FollowOutcome) : List DoneReport :=
  if i.doneReports || followOn.failed then
    [{ handle := i.handle, tag := i.tag, channel := channel, reason := reason, start := start, ending := ending,
       pulses := pulses, followOn := followOn }]
  else []

/-- The operation that an instance carries. -/
def FireInst.operation (i : FireInst) : Option Operation := i.output.map Output.operation

/-- The start of an instance (R115): a train begins its first pulse; a level operation sets the level and enters its
space of zero length. -/
def Channel.start (c : Channel) (now : Nat) (i : FireInst) : Channel :=
  match i.operation with
  | some (.train pulse _ _) =>
    { c with state := .pulse, running := some { inst := i, start := now, pulses := 1, phaseEnd := now + pulse } }
  | op =>
    { c with state := .space, level := c.level.after op,
             running := some { inst := i, start := now, pulses := 0, phaseEnd := now } }

/-- The running instance is gone: the front of the queue starts at the same instant, or the channel enters IDLE (R118,
R124). -/
def Channel.startNext (c : Channel) (now : Nat) : Channel :=
  match c.queue with
  | i :: rest => { c with running := none, queue := rest }.start now i
  | [] => { c with state := .idle, running := none }

/-- The DONE report of the running instance at an early end (R121, R124): it counts the pulse phases begun. -/
def Channel.abortReports (c : Channel) (ch : Fin 8) (now : Nat) (reason : EndReason) : List DoneReport :=
  match c.running with
  | some r => r.inst.done (some ch) reason (some r.start) now r.pulses .none
  | none => []

/-- The DONE reports of waiting instances at an early end, oldest first (R123, R124). -/
def discardReports (ch : Fin 8) (now : Nat) (reason : EndReason) (is : List FireInst) : List DoneReport :=
  is.flatMap fun i => i.done (some ch) reason none now 0 .none

/-- What a clearing of the channel reports: the aborted instance first, then the discarded ones (R123). -/
def Channel.clearReports (c : Channel) (ch : Fin 8) (now : Nat) : List DoneReport :=
  c.abortReports ch now .aborted ++ discardReports ch now .discarded c.queue

/-- Every instance dropped and the state given (R113, R127, R128, R131). -/
def Channel.emptied (c : Channel) (state : ChanState) : Channel := { c with state := state, running := none, queue := [] }

/-- What a channel answers: the channel after, the outcome, the DONE reports that the event offers. -/
structure Arrival where
  channel : Channel
  outcome : Admission
  dones   : List DoneReport
deriving DecidableEq, Repr

/-- The arrival of a fire instance (R110 to R113, table 6.2). -/
def Channel.arrive (c : Channel) (ch : Fin 8) (now : Nat) (i : FireInst) : Arrival :=
  match c.state with
  | .disabled => { channel := c, outcome := .channelOff, dones := [] }
  | .idle => { channel := c.start now i, outcome := .started, dones := [] }
  | .pulse | .space =>
    match i.busy with
    | .queue =>
      if c.queue.length < Config.waitingRoom then
        { channel := { c with queue := c.queue ++ [i] }, outcome := .queued, dones := [] }
      else { channel := c, outcome := .dropped, dones := [] }
    | .drop => { channel := c, outcome := .dropped, dones := [] }
    | .replace =>
      { channel := { c with running := none }.start now i, outcome := .started,
        dones := c.abortReports ch now .aborted }
    | .flush => { channel := (c.emptied .idle).start now i, outcome := .started, dones := c.clearReports ch now }

/-- Whether a phase of the running instance ends at this mono instant (R117). -/
def Channel.phaseDue (c : Channel) (now : Nat) : Bool := c.running.any fun r => r.phaseEnd == now

/-- A phase end that does not complete the instance (R117): a pulse ends in a space, a space begins the next pulse.
`none` when the phase end completes it, or when nothing runs. -/
def Channel.nextPhase (c : Channel) (now : Nat) : Option Channel :=
  match c.running with
  | none => none
  | some r =>
    match r.inst.operation with
    | some (.train pulse space count) =>
      if c.state = .pulse then some { c with state := .space, running := some { r with phaseEnd := now + space } }
      else if r.pulses < count then
        some { c with state := .pulse, running := some { r with pulses := r.pulses + 1, phaseEnd := now + pulse } }
      else none
    | _ => none

/-- A withdrawal's answer: the channel after, the waiting and running instances withdrawn, the DONE reports. -/
structure Withdrawal where
  channel : Channel
  waiting : Nat
  running : Nat
  dones   : List DoneReport
deriving DecidableEq, Repr

/-- The withdrawal of the instances that carry a handle in full; `running` is option ALL (R124). -/
def Channel.withdraw (c : Channel) (ch : Fin 8) (now : Nat) (h : Handle) (running : Bool) : Withdrawal :=
  let gone := c.queue.filter fun i => i.handle == h
  let kept := { c with queue := c.queue.filter fun i => i.handle != h }
  let waitingDones := discardReports ch now .withdrawn gone
  if running && c.runs h then
    { channel := kept.startNext now, waiting := gone.length, running := 1,
      dones := c.abortReports ch now .withdrawn ++ waitingDones }
  else { channel := kept, waiting := gone.length, running := 0, dones := waitingDones }

/-- A channel disabled at a halt or a soft reset: its instances are dropped without reports and its level becomes the
parked level (R131, R132). -/
def Channel.park (c : Channel) : Channel :=
  if c.state = .disabled then c else { c.emptied .disabled with level := c.parked }

end Machine

end Sys2Proof
end

