-- ==== Sys2Proof/Machine/Flags.lean ====
section
/-! DEFINITION. The interrupt unit's bits, its line, and the moderation of REPORTS (R187 to R190). -/

namespace Sys2Proof.Machine

/-- The bits as a register shows them (table 11.2): 0 REPORTS, 1 LOSS, 2 FAULT. -/
def IrqBits.toWord (b : IrqBits) : Word :=
  BitVec.ofNat 32 (b.reports.toNat + 2 * b.loss.toNat + 4 * b.fault.toNat)

/-- The three bits of a written word; its other bits have no effect (R194). -/
def IrqBits.ofWord (w : Word) : IrqBits :=
  { reports := w.getLsbD 0, loss := w.getLsbD 1, fault := w.getLsbD 2 }

/-- The interrupt line INT: high while an enabled bit is set (R188). -/
def Irq.line (q : Irq) : Level :=
  if (q.status.reports && q.enable.reports) || (q.status.loss && q.enable.loss) || (q.status.fault && q.enable.fault)
  then .high else .low

/-- INT_STATUS.LOSS set (R187). -/
def Irq.setLoss (q : Irq) : Irq := { q with status := { q.status with loss := true } }

/-- INT_STATUS.FAULT set (R187). -/
def Irq.setFault (q : Irq) : Irq := { q with status := { q.status with fault := true } }

/-- INT_STATUS.REPORTS set: the moderation start becomes absent, the unsignalled count is kept (R189). -/
def Irq.setReports (q : Irq) : Irq := { q with status := { q.status with reports := true }, start := none }

/-- THRESHOLD, or 1 when it is 0 (R189). -/
def Irq.effectiveThreshold (q : Irq) : Nat := if q.threshold = 0 then 1 else q.threshold.toNat

/-- The moderation expiry: present when the start is present and TIME is not 0 (R189). -/
def Irq.expiry (q : Irq) : Option Nat :=
  match q.start with
  | some t => if q.time = 0 then none else some (t + q.time.toNat * Config.stepFU)
  | none => none

/-- Whether mono time is at or past the moderation expiry while REPORTS is clear (R189). -/
def Irq.expired (q : Irq) (now : Nat) : Bool :=
  !q.status.reports &&
    match q.expiry with
    | some t => decide (t ≤ now)
    | none => false

/-- The count of a written record while REPORTS is clear (R189). -/
def Irq.countWritten (q : Irq) (now : Nat) : Irq :=
  if q.status.reports then q
  else
    let q' := { q with count := q.count + 1, start := some (q.start.getD now) }
    if q'.effectiveThreshold ≤ q'.count then q'.setReports else q'

/-- A write to INT_STATUS: each bit written as 1 is cleared, and clearing REPORTS restarts the moderation (R187,
R189). -/
def Irq.writeStatus (q : Irq) (w : Word) : Irq :=
  let b := IrqBits.ofWord w
  { q with
    status := { reports := q.status.reports && !b.reports, loss := q.status.loss && !b.loss,
                fault := q.status.fault && !b.fault }
    count := if b.reports then 0 else q.count
    start := if b.reports then none else q.start }

/-- A write to INT_ENABLE (R188). -/
def Irq.writeEnable (q : Irq) (w : Word) : Irq := { q with enable := .ofWord w }

/-- A write to INT_MODERATION: THRESHOLD and TIME are stored, and while REPORTS is clear the count and start in
progress are judged anew (R190). -/
def Irq.writeModeration (q : Irq) (w : Word) (now : Nat) : Irq :=
  let q' := { q with threshold := w.extractLsb' 0 8, time := w.extractLsb' 16 16 }
  if q'.status.reports then q'
  else if q'.effectiveThreshold ≤ q'.count ∨ q'.expired now then q'.setReports
  else q'

/-- The interrupt unit after a soft reset: INT_ENABLE and INT_MODERATION are kept (R191). -/
def Irq.softReset (q : Irq) : Irq := { q with status := .clear, count := 0, start := none }

end Sys2Proof.Machine
end

