-- ==== Sys2Proof/Decode.lean ====
section
/-! DEFINITION. The register window's offsets (table 11.2), the rows that a write of the target port spells, and the
host's question about words. opcode_table.json gives no row any bits, so no word spells a command (log entry 19). -/

namespace Sys2Proof

/-- The seventeen registers of the register window (table 8.1). -/
inductive Reg where
  | devId | devRev | control | status | faultCode | faultAddr
  | crBase | crSize | crTail | crHead | rrBase | rrSize | rrHead | rrTail
  | intStatus | intEnable | intModeration
deriving DecidableEq, Repr

/-- The seventeen registers in the order of table 11.2. -/
def Reg.all : List Reg :=
  [.devId, .devRev, .control, .status, .faultCode, .faultAddr, .crBase, .crSize, .crTail, .crHead,
   .rrBase, .rrSize, .rrHead, .rrTail, .intStatus, .intEnable, .intModeration]

/-- A register's offset in the window (table 11.2). -/
def Reg.offset : Reg → Nat
  | .devId => 0x00
  | .devRev => 0x04
  | .control => 0x08
  | .status => 0x0C
  | .faultCode => 0x10
  | .faultAddr => 0x14
  | .crBase => 0x18
  | .crSize => 0x1C
  | .crTail => 0x20
  | .crHead => 0x24
  | .rrBase => 0x28
  | .rrSize => 0x2C
  | .rrHead => 0x30
  | .rrTail => 0x34
  | .intStatus => 0x38
  | .intEnable => 0x3C
  | .intModeration => 0x40

/-- The register at an offset, if table 11.2 has one there. -/
def Reg.ofOffset (offset : Nat) : Option Reg :=
  Reg.all.find? fun r => r.offset == offset

/-- The row that a write of the target port is (R148, R149): a register with behaviour of its own has a row of its
own, and CONTROL has three by the two bits written. -/
def instrOfWrite (r : Reg) (value : Word) : Instr :=
  match r with
  | .control =>
    if value.getLsbD 1 then .softReset (value.getLsbD 0)
    else if value.getLsbD 0 then .enableWrite1 else .enableWrite0
  | .crTail => .crTailWrite value
  | .rrHead => .rrHeadWrite value
  | .intStatus => .intStatusWrite value
  | .intEnable => .intEnableWrite value
  | .intModeration => .intModerationWrite value
  | r => .registerWrite r.offset value

/-- The command a word spells by the table's bits: the table gives no row any bits, so none does. -/
def decodeTableWord (_nbits _w : Nat) : Option Instr := none

end Sys2Proof
end

