-- ==== Sys2Proof/Machine/Calendar.lean ====
section
/-! DEFINITION. The calendar converter (R71, table 4.2): a fixed function of the wall instant, and its inverse. -/

namespace Sys2Proof.Machine

/-- A year is a leap year when its number is divisible by 4 (00, "Time and calendar"). -/
def leapYear (year : Nat) : Bool := year % 4 == 0

/-- The day number at which year 2000 + y begins (R71). -/
def daysBeforeYear (y : Nat) : Nat := 365 * y + (y + 3) / 4

/-- The days before a month's first day in its year (table 4.2); months outside 1 to 12 do not arise. -/
def daysBeforeMonth (leap : Bool) (month : Nat) : Nat :=
  let common := [0, 0, 31, 59, 90, 120, 151, 181, 212, 243, 273, 304, 334].getD month 365
  if leap && 3 ≤ month then common + 1 else common

/-- The days of a month (table 4.2). -/
def daysOfMonth (leap : Bool) (month : Nat) : Nat :=
  if month = 2 then (if leap then 29 else 28)
  else if month = 4 ∨ month = 6 ∨ month = 9 ∨ month = 11 then 30
  else 31

/-- The largest y of at most `top` for which year 2000 + y begins on or before the day (R71). -/
def yearFrom (day : Nat) : Nat → Nat
  | 0 => 0
  | top + 1 => if daysBeforeYear (top + 1) ≤ day then top + 1 else yearFrom day top

/-- The largest month of at most `top` that begins on or before the day of the year (R71). -/
def monthFrom (leap : Bool) (dayOfYear : Nat) : Nat → Nat
  | 0 => 1
  | top + 1 => if daysBeforeMonth leap (top + 1) ≤ dayOfYear then top + 1 else monthFrom leap dayOfYear top

/-- The calendar fields of a wall second (R71). -/
def calendarOfSecond (second : Nat) : Calendar :=
  let day := second / 86400
  let rest := second % 86400
  let y := yearFrom day 99
  let leap := leapYear (2000 + y)
  let dayOfYear := day - daysBeforeYear y
  let month := monthFrom leap dayOfYear 12
  { year := 2000 + y
    month := month
    day := dayOfYear - daysBeforeMonth leap month + 1
    hour := rest / 3600
    minute := rest % 3600 / 60
    second := rest % 60
    weekday := (day + 5) % 7 + 1 }

/-- Whether a wall second lies on the last day of its month (R71). -/
def Calendar.lastDay (c : Calendar) : Bool := c.day == daysOfMonth (leapYear c.year) c.month

/-- The wall second of calendar fields: the inverse conversion (R71). -/
def secondOfCalendar (c : Calendar) : Nat :=
  (daysBeforeYear (c.year - 2000) + daysBeforeMonth (leapYear c.year) c.month + (c.day - 1)) * 86400
    + c.hour * 3600 + c.minute * 60 + c.second

/-- The whole second in which a wall instant lies (R14, R71). -/
def wholeSecond (wall : Nat) : Nat := wall / Config.secondFU

/-- The first invalid field of a date and time, by its number in table 4.3, or none. -/
def calendarError (c : Calendar) (fraction : Nat) : Option Nat :=
  if c.year < 2000 ∨ 2099 < c.year then some 1
  else if c.month < 1 ∨ 12 < c.month then some 2
  else if c.day < 1 ∨ daysOfMonth (leapYear c.year) c.month < c.day then some 3
  else if 23 < c.hour then some 4
  else if 59 < c.minute then some 5
  else if 59 < c.second then some 6
  else if Config.secondFU ≤ fraction then some 7
  else none

end Sys2Proof.Machine
end

