-- ==== Sys2Proof/Machine/Formats.lean ====
section
/-! DEFINITION. What software sees: the contents of each register at a read (tables 11.1 and 11.2, R148 to R150, R193,
R194) and the 32 bytes of each report record (R192, R197, tables 11.5 and 11.6). -/

namespace Sys2Proof.Machine

/-! ### Enumeration codes (table 11.1) -/

def SlotState.code : SlotState → Nat
  | .free => 0
  | .idle => 1
  | .pending => 2
  | .watching => 3
  | .waiting => 4

def DiscState.code : DiscState → Nat
  | .off => 0
  | .acquire => 1
  | .locked => 2
  | .holdover => 3

def WallState.code : WallState → Nat
  | .unset => 0
  | .running => 1
  | .slewing => 2

def ChanState.code : ChanState → Nat
  | .disabled => 0
  | .idle => 1
  | .pulse => 2
  | .space => 3

def Status.code : Status → Nat
  | .ok => 0
  | .badOpcode => 1
  | .badField => 2
  | .badHandle => 3
  | .wrongState => 4
  | .tableFull => 5
  | .busy => 6
  | .wallUnset => 7
  | .noReference => 8
  | .descriptorFault => 9
  | .superseded => 10
  | .cancelled => 11
  | .timeout => 12

def Admission.code : Admission → Nat
  | .started => 0
  | .queued => 1
  | .dropped => 2
  | .channelOff => 3
  | .noChannel => 4

def EndReason.code : EndReason → Nat
  | .completed => 0
  | .aborted => 1
  | .discarded => 2
  | .withdrawn => 3

def FollowOutcome.code : FollowOutcome → Nat
  | .none => 0
  | .armed => 1
  | .stale => 2
  | .notIdle => 3
  | .notAfter => 4

def Polarity.code : Polarity → Nat
  | .rising => 0
  | .falling => 1

def PortState.code : PortState → Nat
  | .disabled => 0
  | .running => 1
  | .draining => 2
  | .halted => 3

def ConfigError.code : ConfigError → Nat
  | .none => 0
  | .crBase => 1
  | .crSize => 2
  | .rrBase => 3
  | .rrSize => 4

def FaultCode.code : FaultCode → Nat
  | .none => 0
  | .fetchError => 1
  | .reportWriteError => 2
  | .tailRange => 3
  | .headRange => 4
  | .timelineEnd => 5

/-! ### Register reads -/

/-- What a read of a register returns; it changes nothing (R148, R149, R150, R193, R194). -/
def readRegister (s : State) : Reg → Word
  | .devId => Config.devId
  | .devRev => Config.devRev
  | .control => if s.port.state = .running then 1 else 0
  | .status => BitVec.ofNat 32 (s.port.state.code + 16 * s.port.configError.code)
  | .faultCode => BitVec.ofNat 32 s.port.faultCode.code
  | .faultAddr => s.port.faultAddr
  | .crBase => s.port.crBase
  | .crSize => s.port.crSize
  | .crTail => BitVec.ofNat 32 s.port.crTail
  | .crHead => BitVec.ofNat 32 s.port.crHead
  | .rrBase => s.port.rrBase
  | .rrSize => s.port.rrSize
  | .rrHead => BitVec.ofNat 32 s.port.rrHead
  | .rrTail => BitVec.ofNat 32 (s.port.rrTail + 2147483648 * s.port.phase.toNat)
  | .intStatus => s.irq.status.toWord
  | .intEnable => s.irq.enable.toWord
  | .intModeration => s.irq.time ++ (0 : Byte) ++ s.irq.threshold

/-! ### Report records -/

/-- A field of a record: the value `v` at byte `i`. -/
def put {n : Nat} (i : Nat) (v : BitVec n) : Record := v.setWidth 256 <<< (8 * i)

/-- A one-byte field. -/
def put8 (i v : Nat) : Record := put i (BitVec.ofNat 8 v)

/-- A two-byte field. -/
def put16 (i v : Nat) : Record := put i (BitVec.ofNat 16 v)

/-- A four-byte field. -/
def put32 (i v : Nat) : Record := put i (BitVec.ofNat 32 v)

/-- An eight-byte field. -/
def put64 (i v : Nat) : Record := put i (BitVec.ofNat 64 v)

/-- A signed four-byte field: two's complement (R192). -/
def putInt32 (i : Nat) (v : Int) : Record := put i (BitVec.ofInt 32 v)

/-- A signed eight-byte field: two's complement (R192). -/
def putInt64 (i : Nat) (v : Int) : Record := put i (BitVec.ofInt 64 v)

/-- An instant or wall value that may be absent: every bit set when it is (R192). -/
def putInstant (i : Nat) : Option Nat → Record
  | some v => put64 i v
  | none => put i (BitVec.allOnes 64)

/-- A handle: slot, then generation. -/
def putHandle (i : Nat) (h : Handle) : Record := put8 i h.slot.val ||| put8 (i + 1) h.gen.val

/-- A flag at a bit of byte `i`. -/
def putFlag (i bit : Nat) (b : Bool) : Record := put8 i (b.toNat * 2 ^ bit)

/-- The clock bit of a due: set for the wall clock. -/
def Due.onWall (d : Due) : Bool := d.clock == .wall

/-- Whether a remaining count is unlimited. -/
def Remaining.isUnlimited : Remaining → Bool
  | .unlimited => true
  | .limited _ => false

/-- The remaining field: 0 when unlimited (note to table 11.5; for QUERY_ACTION, log entry 15). -/
def Remaining.field : Remaining → Nat
  | .unlimited => 0
  | .limited n => n

/-- The last edge of a capture result: polarity bit 1 of byte 9, instant at bytes 16 to 23 (table 11.6). -/
def putLastEdge : Option LastEdge → Record
  | some e => putFlag 9 1 (e.polarity == .falling) ||| put64 16 e.instant
  | none => putInstant 16 none

/-- Handles at two bytes each from byte `i` on, oldest first. -/
def putHandles (i : Nat) : List Handle → Record
  | [] => 0
  | h :: hs => putHandle i h ||| putHandles (i + 2) hs

/-- The calendar and wall bytes of READ_TIME (table 11.6); absent when the wall is UNSET (R72, R192). -/
def putWallTime : Option Nat → Record
  | some wall =>
    let c := calendarOfSecond (wholeSecond wall)
    put8 8 (16 * c.weekday) ||| put8 9 c.month ||| put8 10 c.day ||| put8 11 c.hour ||| put8 12 c.minute
      ||| put8 13 c.second ||| put16 14 c.year ||| put64 24 wall
  | none =>
    put8 9 255 ||| put8 10 255 ||| put8 11 255 ||| put8 12 255 ||| put8 13 255 ||| put16 14 65535 ||| putInstant 24 none

/-- Bytes 8 to 31 of a completion (table 11.6). DESIGN CHOICE (log entry 27): what a field holds whose absence another bit
says is 0 where the spec states no value, namely bytes 12 and 13 of a CHANNEL_STATUS whose running-handle-present flag is
clear, and in a QUERY_ACTION bits 4 to 0 of byte 11 when bit 5 says that the instance counts are absent, and bit 6 of byte 11
when the next due is absent. -/
def Results.bytes : Results → Record
  | .none => 0
  | .defined h => putHandle 8 h
  | .handleOnly h => putHandle 8 h
  | .stateFound h st => putHandle 8 h ||| put8 10 st.code
  | .armed h st due =>
    putHandle 8 h ||| put8 10 st.code ||| putFlag 11 0 (due.any Due.onWall) ||| putInstant 16 (due.map Due.instant)
  | .disarmed h st waiting running => putHandle 8 h ||| put8 10 st.code ||| put8 11 waiting ||| put8 12 running
  | .queried q =>
    putHandle 8 q.handle ||| put8 10 q.state.code
      ||| (match q.counts with
        | some (waiting, running) => put8 11 waiting ||| putFlag 11 4 running
        | .none => putFlag 11 5 true)
      ||| putFlag 11 6 (q.nextDue.any Due.onWall) ||| putFlag 11 7 q.remaining.isUnlimited
      ||| put16 12 q.remaining.field ||| putInstant 16 (q.nextDue.map Due.instant)
      ||| (match q.lastFired with
        | some second => put32 24 second
        | .none => put 24 (BitVec.allOnes 32))
      ||| put32 28 q.fired
  | .time t => put8 8 (t.state.code + 4 * t.disc.code) ||| put64 16 t.mono ||| putWallTime t.wall
  | .wallChanged wall change =>
    putFlag 8 0 change.isNone ||| put64 16 wall ||| putInt64 24 (change.getD 0)
  | .noChange => putFlag 8 0 true
  | .applied amount => putInt64 24 amount
  | .reference found set trim => put8 8 found.code ||| put8 9 set.code ||| putInt32 12 trim
  | .channelSet found aborted discarded level line =>
    put8 8 found.code ||| put8 9 aborted ||| put8 10 discarded ||| putFlag 11 0 (level == .high)
      ||| putFlag 11 1 (line == .high)
  | .channelFlushed aborted discarded => put8 9 aborted ||| put8 10 discarded
  | .channelRead c =>
    putFlag 8 0 c.enabled ||| putFlag 8 1 (c.level == .high) ||| putFlag 8 2 (c.parked == .high)
      ||| putFlag 8 3 (c.line == .high) ||| putFlag 8 4 c.running.isSome ||| put8 9 c.state.code
      ||| put8 10 c.waiting.length
      ||| (match c.running with
        | some h => putHandle 12 h
        | .none => 0)
      ||| putHandles 14 c.waiting
  | .captureSet on line count last =>
    putFlag 8 0 on ||| putFlag 9 0 (line == .high) ||| put32 12 count ||| putLastEdge last
  | .captureRead line count last waiting =>
    putFlag 9 0 (line == .high) ||| put16 10 waiting ||| put32 12 count ||| putLastEdge last

/-- Bytes 2 to 31 of FIRE and SKIP and the flags of byte 1 that they share (table 11.5). -/
def Occurrence.bytes (o : Occurrence) : Record :=
  putFlag 1 2 o.last ||| putFlag 1 3 o.due.onWall ||| putFlag 1 4 o.remaining.isUnlimited ||| putHandle 2 o.handle
    ||| put 4 o.tag ||| put64 8 o.due.instant ||| put64 16 o.instant ||| put32 24 o.lateness ||| put16 28 o.missed
    ||| put16 30 o.remaining.field

/-- The report kind, byte 0 (R197). -/
def Report.kind : Report → Nat
  | .completion _ => 1
  | .fire .. => 2
  | .skip _ => 3
  | .done _ => 4
  | .capture _ => 5
  | .reference _ => 6
  | .wallLost .. => 7
  | .overflow .. => 8

/-- The kind's fields, from bit 1 of byte 1 on (tables 11.5 and 11.6). -/
def Report.fields : Report → Record
  | .completion c =>
    put 2 c.opcode ||| put8 3 c.status.code ||| put 4 c.tag
      ||| put16 6 (c.ringIndex % 4096 + 4096 * (c.fieldNo.getD 0)) ||| c.results.bytes
  | .fire o late admission => putFlag 1 1 late ||| put8 1 (32 * admission.code) ||| o.bytes
  | .skip o => o.bytes
  | .done d =>
    put8 1 (2 * d.reason.code + 16 * d.followOn.code) ||| putHandle 2 d.handle ||| put 4 d.tag ||| putInstant 8 d.start
      ||| put64 16 d.ending ||| put16 24 d.pulses ||| put8 26 (match d.channel with | some c => c.val | none => 255)
  | .capture c =>
    putFlag 1 1 (c.polarity == .falling) ||| put8 2 c.input.val ||| put32 4 c.number ||| put64 8 c.instant
      ||| putInstant 16 c.wall
  | .reference r =>
    put8 2 r.old.code ||| put8 3 r.new.code ||| putInt32 4 r.trim ||| putInt32 8 r.lastError ||| put64 16 r.instant
  | .wallLost moved final instant => put16 2 moved ||| put64 8 final ||| put64 16 instant
  | .overflow lost instant => put16 2 lost ||| put64 16 instant

/-- The 32 bytes of a report record, with the phase in bit 0 of byte 1 (R197). -/
def Report.bytes (r : Report) (phase : Bool) : Record := put8 0 r.kind ||| putFlag 1 0 phase ||| r.fields

end Sys2Proof.Machine
end

