-- ==== Sys2Proof/Machine/Operands.lean ====
section
/-! DEFINITION. What a command record and an action descriptor say: the fields of tables 11.3 and 11.4, and the
validation of each (R7 to R12, R64, R74, R82, R127 to R129, R145, R146). A validation that fails answers the number of
the first invalid field. -/

namespace Sys2Proof.Machine

/-! ### Bytes of a record (R192: little-endian) -/

/-- Byte `i` of a record. -/
def byteAt {n : Nat} (r : BitVec n) (i : Nat) : Byte := r.extractLsb' (8 * i) 8

/-- Bytes `i` and `i + 1`. -/
def le16 {n : Nat} (r : BitVec n) (i : Nat) : BitVec 16 := r.extractLsb' (8 * i) 16

/-- Bytes `i` to `i + 3`. -/
def le32 {n : Nat} (r : BitVec n) (i : Nat) : BitVec 32 := r.extractLsb' (8 * i) 32

/-- Bytes `i` to `i + 7`. -/
def le64 {n : Nat} (r : BitVec n) (i : Nat) : BitVec 64 := r.extractLsb' (8 * i) 64

/-- The handle at bytes `i` and `i + 1`: slot, then generation (table 11.1's note). -/
def handleAt {n : Nat} (r : BitVec n) (i : Nat) : Handle :=
  { slot := ⟨(byteAt r i).toNat, (byteAt r i).isLt⟩, gen := ⟨(byteAt r (i + 1)).toNat, (byteAt r (i + 1)).isLt⟩ }

/-- The opcode of the command in hand (R195). -/
def InHand.opcode (c : InHand) : Byte := byteAt c.record 0

/-- The tag of the command in hand (R195). -/
def InHand.tag (c : InHand) : BitVec 16 := le16 c.record 2

/-! ### Codes of small enumerations; `none` is a code that names nothing (R192) -/

def latePolicyOf : Nat → Option LatePolicy
  | 0 => some .fireLate
  | 1 => some .skip
  | _ => none

def busyPolicyOf : Nat → Option BusyPolicy
  | 0 => some .queue
  | 1 => some .replace
  | 2 => some .flush
  | 3 => some .drop
  | _ => none

def rearmOf : Nat → Option Rearm
  | 0 => some .once
  | 1 => some .everyEdge
  | _ => none

def levelOf : Nat → Option Level
  | 0 => some .low
  | 1 => some .high
  | _ => none

def flagOf : Nat → Option Bool
  | 0 => some false
  | 1 => some true
  | _ => none

def edgeSelectOf : Nat → Option EdgeSelect
  | 0 => some .rising
  | 1 => some .falling
  | 2 => some .both
  | _ => none

def snapUnitOf : Nat → Option SnapUnit
  | 0 => some .second
  | 1 => some .minute
  | _ => none

/-- A number below `n`, for channel and input numbers. -/
def below (n x : Nat) : Option (Fin n) := if h : x < n then some ⟨x, h⟩ else none

/-! ### The action descriptor (tables 1.2 and 11.4) -/

/-- A pattern field of at most `top`, or ANY (0xFF); the outer `none` is an invalid value (R9). -/
def patternField (top x : Nat) : Option (Option Nat) :=
  if x = 255 then some none else if x ≤ top then some (some x) else none

/-- The day field: 1 to 31, LAST (0xFE) or ANY (0xFF) (R9, R192). -/
def dayFieldOf (x : Nat) : Option DayField :=
  if x = 255 then some .any
  else if x = 254 then some .last
  else if 1 ≤ x ∧ x ≤ 31 then some (.day x)
  else none

/-- The pattern data at bytes 8 to 14 (R9); bits 15-12 of the month mask and bit 7 of the weekday mask are reserved
(R194). -/
def patternOf (d : Descriptor) : Option Pattern :=
  let months : BitVec 12 := d.extractLsb' 96 12
  let weekdays : BitVec 7 := d.extractLsb' 112 7
  match patternField 59 (byteAt d 8).toNat, patternField 59 (byteAt d 9).toNat, patternField 23 (byteAt d 10).toNat,
      dayFieldOf (byteAt d 11).toNat with
  | some second, some minute, some hour, some day =>
    if months = 0 ∨ weekdays = 0 then none
    else some { second := second, minute := minute, hour := hour, day := day, months := months, weekdays := weekdays }
  | _, _, _, _ => none

/-- An instant or delay of at most `top` at bytes 8 to 15 (table 1.3). -/
def instantOf (d : Descriptor) (top : Nat) : Option Nat :=
  if (le64 d 8).toNat ≤ top then some (le64 d 8).toNat else none

/-- Field 2 for the trigger kind of field 1 (R8, table 1.3). The caller has checked the kind. -/
def triggerOf (d : Descriptor) : Option Trigger :=
  match (byteAt d 0).toNat with
  | 0 => (instantOf d Config.monoLast).map .atMono
  | 1 => (instantOf d Config.wallLast).map .atWall
  | 2 => (instantOf d Config.delayMax).map .after
  | 3 => (patternOf d).map .pattern
  | _ =>
    match below 4 (byteAt d 1).toNat, instantOf d Config.delayMax, rearmOf (byteAt d 2).toNat with
    | some input, some delay, some rearm => some (.onCapture input delay rearm)
    | _, _, _ => none

/-- Whether a trigger is a calendar pattern. -/
def Trigger.isPattern : Trigger → Bool
  | .pattern _ => true
  | _ => false

/-- Field 3: absent (0), or 1,024 to 2^44 except for PATTERN (R10). -/
def periodOf (t : Trigger) (x : Nat) : Option (Option Nat) :=
  if x = 0 then some none
  else if t.isPattern then none
  else if Config.periodMin ≤ x ∧ x ≤ Config.delayMax then some (some x)
  else none

/-- Field 4 against field 3 and the trigger kind (table 1.4). -/
def countValid (t : Trigger) (period : Option Nat) (count : Nat) : Bool :=
  t.isPattern || period.isSome || count == 1

/-- Field 7: absent (0xFF) or 0 to 7 (R12). -/
def channelOf (x : Nat) : Option (Option (Fin 8)) :=
  if x = 255 then some none else (below 8 x).map some

/-- The train parameters at bytes 36 to 45 (R12). -/
def trainOf (d : Descriptor) : Option Operation :=
  let pulse := (le32 d 36).toNat
  let space := (le32 d 40).toNat
  let count := (le16 d 44).toNat
  if 1 ≤ pulse ∧ pulse ≤ Config.widthMax ∧ 1 ≤ space ∧ space ≤ Config.widthMax ∧ 1 ≤ count then
    some (.train pulse space count)
  else none

/-- Field 8: absent (0) or one of the four operations; the outer `none` is an invalid field (R12). -/
def operationOf (d : Descriptor) : Option (Option Operation) :=
  match (byteAt d 5).toNat with
  | 0 => some none
  | 1 => some (some .setHigh)
  | 2 => some (some .setLow)
  | 3 => some (some .toggle)
  | 4 => (trainOf d).map some
  | _ => none

/-- Field 8 checked against field 7: both present or both absent (R12). -/
def outputOf (d : Descriptor) (channel : Option (Fin 8)) : Option (Option Output) :=
  match operationOf d, channel with
  | some none, none => some none
  | some (some op), some ch => some (some { channel := ch, operation := op })
  | _, _ => none

/-- Field 13: absent unless its present flag, bit 3 of byte 7, is set (R11, table 11.4). -/
def followOnOf (d : Descriptor) : Option Handle :=
  if (byteAt d 7).getLsbD 3 then some (handleAt d 26) else none

/-- The validation of a descriptor, field by field in the order of table 1.2 (R7): the defined action, or the number
of the first invalid field. -/
def validateDescriptor (d : Descriptor) : Except Nat Action :=
  if 4 < (byteAt d 0).toNat then .error 1 else
  match triggerOf d with
  | none => .error 2
  | some trigger =>
  match periodOf trigger (le64 d 16).toNat with
  | none => .error 3
  | some period =>
  if !countValid trigger period (le16 d 24).toNat then .error 4 else
  match latePolicyOf (byteAt d 3).toNat with
  | none => .error 6
  | some latePolicy =>
  match channelOf (byteAt d 4).toNat with
  | none => .error 7
  | some channel =>
  match outputOf d channel with
  | none => .error 8
  | some output =>
  match busyPolicyOf (byteAt d 6).toNat with
  | none => .error 9
  | some busy =>
  .ok
    { trigger := trigger
      period := period
      count := (le16 d 24).toNat
      lateLimit := (le32 d 28).toNat
      latePolicy := latePolicy
      output := output
      busy := busy
      fireReports := (byteAt d 7).getLsbD 0
      doneReports := (byteAt d 7).getLsbD 1
      autoRelease := (byteAt d 7).getLsbD 2
      tag := le32 d 32
      followOn := followOnOf d }

/-! ### Command records (table 11.3) -/

/-- The descriptor address of DEFINE_ACTION. -/
def descriptorAddress (r : Record) : Nat := (le32 r 4).toNat

/-- The withdraw option of DISARM (R16): whether waiting instances go, and whether the running one goes too. -/
inductive Withdraw where
  | none | queued | all
deriving DecidableEq, Repr

def withdrawOf (r : Record) : Except Nat Withdraw :=
  match (byteAt r 6).toNat with
  | 0 => .ok .none
  | 1 => .ok .queued
  | 2 => .ok .all
  | _ => .error 2

/-- The date and time of SET_TIME as the record gives them; the weekday is not used (R74). -/
def setTimeFields (r : Record) : Calendar :=
  { year := (le16 r 4).toNat
    month := (byteAt r 6).toNat
    day := (byteAt r 7).toNat
    hour := (byteAt r 8).toNat
    minute := (byteAt r 9).toNat
    second := (byteAt r 10).toNat
    weekday := 0 }

/-- The wall instant that SET_TIME asks for, or the first invalid field (R74). -/
def setTimeInstant (r : Record) : Except Nat Nat :=
  match calendarError (setTimeFields r) (le32 r 12).toNat with
  | some n => .error n
  | none => .ok (secondOfCalendar (setTimeFields r) * Config.secondFU + (le32 r 12).toNat)

/-- The signed delta of STEP_TIME and ADJUST_TIME. -/
def deltaOf (r : Record) : Int := (le64 r 8).toInt

/-- A SNAP_TIME whose fields are valid: with source NOW, or NEXT_REF with its wait limit in seconds (R82). -/
inductive SnapRequest where
  | now (unit : SnapUnit)
  | nextRef (unit : SnapUnit) (limit : Nat)
deriving DecidableEq, Repr

/-- The first three checks of table 4.5. -/
def snapRequestOf (r : Record) : Except Nat SnapRequest :=
  match snapUnitOf (byteAt r 4).toNat with
  | none => .error 1
  | some unit =>
  match (byteAt r 5).toNat with
  | 0 => .ok (.now unit)
  | 1 => if (byteAt r 6).toNat = 0 then .error 3 else .ok (.nextRef unit (byteAt r 6).toNat)
  | _ => .error 2

/-- The fields of CONFIG_REFERENCE (table 3.3). -/
structure ReferenceFields where
  on        : Bool
  window    : Nat
  lockCount : Nat
  missLimit : Nat
  trim      : Option Int
deriving DecidableEq, Repr

/-- The validation of CONFIG_REFERENCE (R64); an absent trim is 0x80000000 (R192). -/
def referenceFieldsOf (r : Record) : Except Nat ReferenceFields :=
  let window := (le16 r 6).toNat
  let lockCount := (byteAt r 8).toNat
  let missLimit := (byteAt r 9).toNat
  let trim := (le32 r 12).toInt
  let absent := le32 r 12 == 0x80000000
  match flagOf (byteAt r 4).toNat with
  | none => .error 1
  | some on =>
  if window < 16 then .error 2
  else if lockCount < 1 ∨ 15 < lockCount then .error 3
  else if missLimit < 1 ∨ 15 < missLimit then .error 4
  else if !absent && (decide (trim < -Config.trimMax) || decide (Config.trimMax < trim)) then .error 5
  else .ok { on := on, window := window, lockCount := lockCount, missLimit := missLimit,
             trim := if absent then none else some trim }

/-- The channel number of a channel command, field 1 (R127 to R129). -/
def channelNumberOf (r : Record) : Except Nat (Fin 8) :=
  match below 8 (byteAt r 4).toNat with
  | none => .error 1
  | some ch => .ok ch

/-- The fields of CONFIG_CHANNEL (R127). -/
structure ChannelFields where
  channel : Fin 8
  enable  : Bool
  initial : Level
  parked  : Level
deriving DecidableEq, Repr

/-- The validation of CONFIG_CHANNEL (R127). -/
def channelFieldsOf (r : Record) : Except Nat ChannelFields :=
  match channelNumberOf r with
  | .error n => .error n
  | .ok channel =>
  match flagOf (byteAt r 5).toNat with
  | none => .error 2
  | some enable =>
  match levelOf (byteAt r 6).toNat with
  | none => .error 3
  | some initial =>
  match levelOf (byteAt r 7).toNat with
  | none => .error 4
  | some parked => .ok { channel := channel, enable := enable, initial := initial, parked := parked }

/-- The input number of a capture command, field 1 (R145, R146). -/
def inputNumberOf (r : Record) : Except Nat (Fin 4) :=
  match below 4 (byteAt r 4).toNat with
  | none => .error 1
  | some input => .ok input

/-- The fields of CONFIG_CAPTURE (R145). -/
structure CaptureFields where
  input  : Fin 4
  on     : Bool
  select : EdgeSelect
  filter : Nat
  report : Bool
deriving DecidableEq, Repr

/-- The validation of CONFIG_CAPTURE (R145). -/
def captureFieldsOf (r : Record) : Except Nat CaptureFields :=
  match inputNumberOf r with
  | .error n => .error n
  | .ok input =>
  match flagOf (byteAt r 5).toNat with
  | none => .error 2
  | some on =>
  match edgeSelectOf (byteAt r 6).toNat with
  | none => .error 3
  | some select =>
  if 1023 < (le16 r 8).toNat then .error 4 else
  match flagOf (byteAt r 10).toNat with
  | none => .error 5
  | some report => .ok { input := input, on := on, select := select, filter := (le16 r 8).toNat, report := report }

end Sys2Proof.Machine
end

