-- ==== Sys2Proof/Machine/Ops.lean ====
section
/-! DEFINITION. The shared operations on the state: the two clocks, one slot, channel or input of the part, the report
queue (R180 to R183), the starts of fetches and report writes (R160, R184), and the answering of commands (R167 to R169). -/

namespace Sys2Proof.Machine

/-! ### The clocks -/

/-- Mono now (R54). -/
def State.mono (s : State) : Nat := s.time.mono

/-- Whether there is wall time: RUNNING or SLEWING (R69). -/
def Wall.active (w : Wall) : Bool := w.state != .unset

/-- Wall now: mono time plus the wall offset (R69). -/
def State.wallNow (s : State) : Nat := ((s.time.mono : Int) + s.wall.offset).toNat

/-- The present instant of a clock. -/
def State.now (s : State) : Clock → Nat
  | .mono => s.mono
  | .wall => s.wallNow

/-- The last instant of a clock's range (R40). -/
def Clock.lastInstant : Clock → Nat
  | .mono => Config.monoLast
  | .wall => Config.wallLast

/-- A field that stays at its largest value once it reaches it (00, "Numbers and units"). -/
def saturate (top n : Nat) : Nat := min top n

/-! ### One slot, one channel, one input -/

def State.slot (s : State) (i : SlotId) : Slot := s.slots[i.val]

def State.setSlot (s : State) (i : SlotId) (x : Slot) : State := s.setSlots (s.slots.set i.val x)

def State.chan (s : State) (ch : Fin 8) : Channel := s.chans[ch.val]

def State.setChan (s : State) (ch : Fin 8) (x : Channel) : State := s.setChans (s.chans.set ch.val x)

def State.cap (s : State) (input : Fin 4) : Capture := s.caps[input.val]

def State.setCap (s : State) (input : Fin 4) (x : Capture) : State := s.setCaps (s.caps.set input.val x)

/-- What a slot holds, with its state given anew. -/
def State.setHeld (s : State) (i : SlotId) (h : Held) : State := s.setSlot i { s.slot i with held := some h }

/-- A slot's state (table 1.1). -/
def Slot.state (x : Slot) : SlotState :=
  match x.held with
  | some h => h.state
  | none => .free

/-- What a live handle names: the slot is not FREE and its generation is the handle's (R3). -/
def State.live (s : State) (h : Handle) : Option Held := if (s.slot h.slot).gen = h.gen then (s.slot h.slot).held else none

/-! ### The report queue -/

/-- The free entries (R180). -/
def ReportQueue.free (q : ReportQueue) : Nat := Config.queueRoom - q.records.length

/-- The margin: what is open to event reports (R180). -/
def ReportQueue.margin (q : ReportQueue) : Nat := q.free - q.reservations

/-- A record joins the queue at its end (R180). -/
def State.append (s : State) (r : Report) : State := s.setReports { s.reports with records := s.reports.records ++ [r] }

def State.setLost (s : State) (n : Nat) : State := s.setReports { s.reports with lost := n }

/-- An event report is dropped: the lost count rises, and LOSS is set when it passes from 0 to 1 (R182, R187). -/
def dropReport (s : State) : State :=
  let counted := s.setLost (saturate Config.max16 (s.reports.lost + 1))
  if s.reports.lost = 0 then counted.setIrq s.irq.setLoss else counted

/-- The offer of an event report to the report queue (R182, R183): accepted while the port is RUNNING and the margin
allows, behind an OVERFLOW report when reports have been lost. -/
def offer (s : State) (r : Report) : State :=
  if s.port.state = .running ∧ 1 ≤ s.reports.margin then
    if s.reports.lost = 0 then s.append r
    else
      let told := (s.append (.overflow s.reports.lost s.mono)).setLost 0
      if 2 ≤ s.reports.margin then told.append r else dropReport told
  else dropReport s

/-- Several event reports offered in order. -/
def offerAll (s : State) (rs : List Report) : State := rs.foldl offer s

/-- DONE reports offered in order (R114, R123). -/
def offerDones (s : State) (ds : List DoneReport) : State := offerAll s (ds.map .done)

/-- Whether a record is a completion. -/
def Report.isCompletion : Report → Bool
  | .completion _ => true
  | _ => false

/-- Whether a record is an OVERFLOW report. -/
def Report.isOverflow : Report → Bool
  | .overflow .. => true
  | _ => false

/-- Whether place `i` of the records accepted in one event is open to a completion: it is, unless it parts an OVERFLOW
report from the event report behind it, which stand with no record between them (R183). -/
def openPlace (accepted : List Report) (i : Nat) : Bool :=
  match i with
  | 0 => true
  | j + 1 =>
    match accepted[j]?, accepted[j + 1]? with
    | some a, some b => !(a.isOverflow && !b.isCompletion)
    | _, _ => true

/-- The places at which a completion may stand among the records accepted in the same event. -/
def openPlaces (accepted : List Report) : List Nat := (List.range (accepted.length + 1)).filter (openPlace accepted)

/-- The acceptance of a completion into its reserved entry (R181): the reservations fall by one. Among the records that
the same event has put in the queue behind the first `base`, it stands at a place that the spec leaves open (R167, R180):
with one open place it stands there, with more the free value of Config chooses (log entry 5). -/
def acceptCompletion (base : Nat) (s : State) (c : Completion) : State :=
  let old := s.reports.records.take base
  let fresh := s.reports.records.drop base
  let places := openPlaces fresh
  let free := decide (1 < places.length)
  let place := if free then places.getD (Config.acceptPosition s.choices % places.length) 0 else places.getD 0 0
  (s.setReports
    { s.reports with records := old ++ (fresh.take place ++ .completion c :: fresh.drop place),
                     reservations := s.reports.reservations - 1 }).setChoices
    (if free then s.choices + 1 else s.choices)

/-- The completions of one event, whose first new record would be record `base` of the queue (R174, R180). -/
def acceptAll (base : Nat) (s : State) (cs : List Completion) : State := cs.foldl (acceptCompletion base) s

/-- How many records the queue holds: where the records of the present event will begin. -/
def State.queued (s : State) : Nat := s.reports.records.length

/-! ### Starting fetches and report writes -/

/-- The address of a ring entry (section 8.3). -/
def entryAddress (base : Word) (index : Nat) : Word := base + BitVec.ofNat 32 (32 * index)

/-- The next index of a ring (section 8.3). -/
def nextIndex (index : Nat) (size : Word) : Nat := (index + 1) % size.toNat

/-- The conditions under which a fetch starts (R160). -/
abbrev State.fetchReady (s : State) : Prop :=
  s.port.state = .running ∧ s.port.crHead ≠ s.port.crTail ∧ s.cmd.state = .idle ∧ s.port.fetch = none ∧
    1 ≤ s.reports.margin

/-- A fetch starts if its conditions hold: one entry is reserved and the read of the record at CR_HEAD is issued (R160, R181).
This is the end of an event that may be the one to make the last condition hold, be it a CR_TAIL write, the command unit becoming
free, or the write of a record to the ring. -/
def fetchIfReady (s : State) : State :=
  (s.setPort
    { s.port with fetch := if s.fetchReady then some (entryAddress s.port.crBase s.port.crHead) else s.port.fetch }).setReports
    { s.reports with reservations := if s.fetchReady then s.reports.reservations + 1 else s.reports.reservations }

/-- The write of a record to the ring entry at RR_TAIL (R184, R197). -/
def Port.writeOf (p : Port) (front : Report) : ReportWrite :=
  { address := entryAddress p.rrBase p.rrTail, entry := p.rrTail, phase := p.phase, bytes := front.bytes p.phase }

/-- The write in flight once the write of the front record has started, if the conditions hold under which it starts (R184). -/
def State.frontWrite (s : State) : Option ReportWrite :=
  match s.reports.records with
  | front :: _ =>
    if (s.port.state = .running ∨ s.port.state = .draining) ∧ s.reports.write = none ∧
        nextIndex s.port.rrTail s.port.rrSize ≠ s.port.rrHead then some (s.port.writeOf front)
    else s.reports.write
  | [] => s.reports.write

/-- The write of the front record starts if its conditions hold (R184). -/
def writeIfReady (s : State) : State := s.setReports { s.reports with write := s.frontWrite }

/-- The write that an event starts by accepting a record into an empty queue, of which `queued` says how many records it held
before the event (R184). The record written is the one that the event leaves at the front. -/
def writeOnAcceptance (queued : Nat) (s : State) : State :=
  s.setReports { s.reports with write := if queued = 0 then s.frontWrite else s.reports.write }

/-! ### The command unit -/

/-- The owner's answer to a command (R167): a status with the field found invalid and the results, at once or, for a
deferred command, later. -/
inductive Reply where
  | now (status : Status) (fieldNo : Option Nat) (results : Results)
  | later
deriving DecidableEq, Repr

/-- What a command's owner hands back: the state after its effect, its answer, and the completions of deferred commands
that its effect ended (R174). -/
structure Answer where
  state : State
  reply : Reply
  ended : List Completion

/-- An answer OK with results and nothing ended. -/
def okWith (s : State) (r : Results) : Answer := { state := s, reply := .now .ok none r, ended := [] }

/-- A refusal that leaves the owner as the command found it (R170). -/
def refuseWith (s : State) (status : Status) (r : Results) : Answer := { state := s, reply := .now status none r, ended := [] }

/-- BAD_FIELD with the number of the field found invalid (R169, R170). -/
def badField (s : State) (n : Nat) (r : Results) : Answer := { state := s, reply := .now .badField (some n) r, ended := [] }

/-- The completion of the command in hand (R169). -/
def InHand.completion (c : InHand) (status : Status) (fieldNo : Option Nat) (results : Results) : Completion :=
  { tag := c.tag, opcode := c.opcode, ringIndex := c.index, status := status, fieldNo := fieldNo, results := results }

/-- The command unit becomes IDLE, with the command in hand absent. -/
def State.freeUnit (s : State) : State := s.setCmd { s.cmd with state := .idle }

/-- Steps 3 and 4 of a carry-out, and the end of a descriptor read (R167, R172): the completion is accepted beside those of
the deferred commands that the effect ended, and the command unit becomes IDLE. The same event starts the write of a record
accepted into an empty queue (R184) and, the command unit having become free, the next fetch (R160). -/
def finish (base : Nat) (c : InHand) (a : Answer) : State :=
  let own := match a.reply with
    | .now status fieldNo results => [c.completion status fieldNo results]
    | .later => []
  fetchIfReady (writeOnAcceptance base (acceptAll base a.state (a.ended ++ own)).freeUnit)

/-- The carry-out of the command in hand by the owner of its opcode (R167). A carry-out whose command is not in hand
does not arise and changes nothing (log entry 2). -/
def carryOut (opcode : Byte) (s : State) (owner : InHand → State → Answer) : State :=
  match s.cmd.state with
  | .holding c => if c.opcode = opcode then finish s.queued c (owner c s) else s
  | _ => s

/-- The deferred command's completion, built from its deferred slot (R174). -/
def Deferred.completion (d : Deferred) (opcode : Byte) (status : Status) (fieldNo : Option Nat) (results : Results) :
    Completion :=
  { tag := d.tag, opcode := opcode, ringIndex := d.index, status := status, fieldNo := fieldNo, results := results }

end Sys2Proof.Machine
end

