-- ==== Sys2Proof/Machine/Schedule.lean ====
section
/-! DEFINITION. The action table and the scheduler (Chapters 1, 2, 5 and 7): placing slots in their collections and
taking them out, the follow-on request, the taking of occurrences, pattern matching, the conversion of a capture-wait
set, and the removal of wall-bound actions. -/

namespace Sys2Proof.Machine

/-! ### Placing and removing slots -/

/-- A repeat count as a remaining count: 0 is unlimited (R10, R14). -/
def Remaining.ofCount (count : Nat) : Remaining := if count = 0 then .unlimited else .limited count

/-- A remaining count after an occurrence that uses up `n` of the run (R39, R103). -/
def Remaining.minus : Remaining → Nat → Remaining
  | .unlimited, _ => .unlimited
  | .limited r, n => .limited (r - n)

/-- A slot's contents with its run-time fields at their starting values (R14). -/
def Held.fresh (a : Action) : Held :=
  { action := a, state := .idle, nextDue := none, remaining := .ofCount a.count, fired := 0, lastFired := none }

/-- The due of a slot, as the due lists are ordered by it (R26). -/
def State.dueOf (s : State) (i : SlotId) : Nat :=
  match (s.slot i).held with
  | some h => (h.nextDue.map Due.instant).getD 0
  | none => 0

/-- A joining entry stands behind every entry whose due is equal or earlier (R27). -/
def insertDue (key : SlotId → Nat) (i : SlotId) (due : Nat) : List SlotId → List SlotId
  | [] => [i]
  | j :: rest => if key j ≤ due then j :: insertDue key i due rest else i :: j :: rest

/-- The pattern set with a slot joined, in ascending order. -/
def insertSlot (i : SlotId) : List SlotId → List SlotId
  | [] => [i]
  | j :: rest => if i < j then i :: j :: rest else if i = j then j :: rest else j :: insertSlot i rest

/-- A slot taken out of whatever collection it stands in; the others keep their order (R28, R94, R139). -/
def Sched.without (q : Sched) (i : SlotId) : Sched :=
  { q with monoDue := q.monoDue.filter (· != i), wallDue := q.wallDue.filter (· != i),
           patterns := q.patterns.filter (· != i), waits := q.waits.map fun w => w.filter (· != i),
           found := q.found.filter (·.slot != i) }

def State.uncollect (s : State) (i : SlotId) : State := s.setSched (s.sched.without i)

/-- The slot becomes PENDING with a due and joins the due list of the due's clock (R2, R27). -/
def State.pend (s : State) (i : SlotId) (h : Held) (due : Due) : State :=
  let q := s.sched
  (s.setSched (match due.clock with
    | .mono => { q with monoDue := insertDue s.dueOf i due.instant q.monoDue }
    | .wall => { q with wallDue := insertDue s.dueOf i due.instant q.wallDue })).setHeld i
      { h with state := .pending, nextDue := some due }

/-- The slot becomes WATCHING and joins the pattern set (R94). -/
def State.watch (s : State) (i : SlotId) (h : Held) : State :=
  (s.setSched { s.sched with patterns := insertSlot i s.sched.patterns }).setHeld i
    { h with state := .watching, nextDue := none }

/-- The slot becomes WAITING and joins the end of its input's capture-wait set (R139). -/
def State.await (s : State) (i : SlotId) (h : Held) (input : Fin 4) : State :=
  (s.setSched { s.sched with waits := s.sched.waits.set input.val (s.sched.waits[input.val] ++ [i]) }).setHeld i
    { h with state := .waiting, nextDue := none }

/-- The slot becomes IDLE, in no collection; its counts are kept (R22). -/
def State.idle (s : State) (i : SlotId) (h : Held) : State :=
  (s.uncollect i).setHeld i { h with state := .idle, nextDue := none }

/-- The slot becomes FREE: what it held is discarded and its generation rises by one, mod 256 (R3). -/
def State.freeSlot (s : State) (i : SlotId) : State :=
  (s.uncollect i).setSlot i { gen := (s.slot i).gen + 1, held := none }

/-- The arming of an IDLE action, with `now` as mono now or the completion instant: its run-time fields start anew and it
is placed by its trigger (R14, table 1.7, R20). -/
def State.armSlot (s : State) (i : SlotId) (a : Action) (now : Nat) : State :=
  let h := Held.fresh a
  match a.trigger with
  | .atMono due => s.pend i h { clock := .mono, instant := due }
  | .atWall due => s.pend i h { clock := .wall, instant := due }
  | .after delay => s.pend i h { clock := .mono, instant := now + delay }
  | .pattern _ => s.watch i h
  | .onCapture input _ _ => s.await i h input

/-- The end of a run or of an arming: IDLE, or FREE when auto-release is on (R22, R51). -/
def State.retire (s : State) (i : SlotId) (h : Held) : State :=
  if h.action.autoRelease then s.freeSlot i else s.idle i h

/-- The end of a run (R41, R103): an EVERY_EDGE action waits on its input again, any other ends its arming. -/
def State.endRun (s : State) (i : SlotId) (h : Held) : State :=
  match h.action.trigger with
  | .onCapture input _ .everyEdge => (s.uncollect i).await i h input
  | _ => s.retire i h

/-! ### The follow-on request -/

/-- The table's answer to a follow-on request with a completion instant (R20). -/
def State.follow (s : State) (target : Handle) (completion : Nat) : State × FollowOutcome :=
  match s.live target with
  | none => (s, .stale)
  | some h =>
    if h.state ≠ .idle then (s, .notIdle)
    else
      match h.action.trigger with
      | .after _ => (s.armSlot target.slot h.action completion, .armed)
      | _ => (s, .notAfter)

/-- The follow-on request of an ended instance, if it carries a handle (R43, R118). -/
def State.followOf (s : State) (i : FireInst) (completion : Nat) : State × FollowOutcome :=
  match i.followOn with
  | some target => s.follow target completion
  | none => (s, .none)

/-! ### Which occurrences are due -/

/-- Whether a slew step falls at this mono instant while the wall is SLEWING (R78). -/
def State.stepHere (s : State) : Option Slew :=
  if s.time.exhausted || s.wall.state != .slewing then none else s.wall.slew.filter fun w => w.nextStep == s.mono

/-- Whether wall time reaches the last FU of its range at this mono instant, by its own passage, by a wall change, or by a
forward slew step that falls here; no slew step is taken then (R88). DESIGN CHOICE (unsafe, log entry 31): where the forward
step brings the range end, wall now stays one FU short of the last FU until the range end is taken, and a command or an
EXPIRY taken first finds it there. -/
def State.rangeEndHere (s : State) : Bool :=
  decide (Config.wallLast ≤ s.wallNow)
    || s.stepHere.any fun w => decide (0 ≤ w.remainder) && decide (Config.wallLast ≤ s.wallNow + 1)

/-- Whether a slew step is due and will be taken at this mono instant (R78, R88). -/
def State.stepDue (s : State) : Bool := s.stepHere.isSome && !s.rangeEndHere

/-- The first wall instant that has not been reached at this mono instant: the one behind wall now, or, where a forward
slew step would bring the range end, the one behind the last FU (R51, log entry 9). -/
def State.wallReach (s : State) : Nat :=
  if s.rangeEndHere then max (Config.wallLast + 1) (s.wallNow + 1) else s.wallNow + 1

/-- What an EXPIRY takes as reached: the instant that wall time has just entered is judged once the slew step of this mono
instant has been taken, since a forward step passes over it and a backward one leaves it (R50, log entry 8). -/
def State.expiryReach (s : State) : Nat := if s.stepDue then s.wallNow else s.wallReach

/-- Whether an entry of a due list is due, wall time having reached every instant before `reach`, and its slot has had no
occurrence taken at this mono instant (R35, R36). -/
def State.entryDue (s : State) (reach : Nat) (clock : Clock) (i : SlotId) : Bool :=
  !s.sched.taken.contains i &&
    match clock with
    | .mono => decide (s.dueOf i ≤ s.mono)
    | .wall => s.wall.active && decide (s.dueOf i < reach)

/-- The first due entry of each list (R35). -/
def State.dueMono (s : State) (reach : Nat) : Option SlotId := s.sched.monoDue.find? (s.entryDue reach .mono)

def State.dueWall (s : State) (reach : Nat) : Option SlotId := s.sched.wallDue.find? (s.entryDue reach .wall)

/-- The order of pattern occurrences: by ascending mono equivalent, then by ascending slot number (R35, R98). -/
def Match.before (a b : Match) : Bool :=
  decide (b.lateness < a.lateness) || (a.lateness == b.lateness && decide (a.slot < b.slot))

/-- The first of some pattern occurrences (R35). -/
def firstMatch : List Match → Option Match
  | [] => none
  | m :: rest =>
    match firstMatch rest with
    | none => some m
    | some n => if n.before m then some n else some m

/-- The pattern occurrence that comes first among those found: its slot is still WATCHING and in the set (R98), and has had
no occurrence taken at this mono instant (R105). -/
def State.dueMatch (s : State) : Option Match :=
  firstMatch (s.sched.found.filter fun m => s.sched.patterns.contains m.slot && !s.sched.taken.contains m.slot)

/-- An occurrence that may be taken: an entry of a due list, or a pattern occurrence. -/
inductive Taking where
  | entry (i : SlotId)
  | found (m : Match)
deriving DecidableEq, Repr

/-- The mono equivalent of a wall due (R29). -/
def State.monoEquivalent (s : State) (wallDue : Nat) : Int := (wallDue : Int) - s.wall.offset

/-- The occurrence that is taken next (R35): by ascending mono equivalent; on a tie mono entries, then wall entries, then
pattern occurrences. A pattern occurrence's mono equivalent is its lateness before mono now (R98). -/
def State.nextTaking (s : State) (reach : Nat) : Option Taking :=
  let listed : Option (SlotId × Int) :=
    match s.dueMono reach, s.dueWall reach with
    | some m, some w =>
      if (s.dueOf m : Int) ≤ s.monoEquivalent (s.dueOf w) then some (m, s.dueOf m) else some (w, s.monoEquivalent (s.dueOf w))
    | some m, none => some (m, s.dueOf m)
    | none, some w => some (w, s.monoEquivalent (s.dueOf w))
    | none, none => none
  match listed, s.dueMatch with
  | some (i, at'), some m => if at' ≤ (s.mono : Int) - m.lateness then some (.entry i) else some (.found m)
  | some (i, _), none => some (.entry i)
  | none, some m => some (.found m)
  | none, none => none

/-! ### Taking an occurrence -/

/-- The missed occurrences of a repeating action taken late (R38): the whole k of 1 or more with due + k x period at or
before the present instant, at most the occurrences the run still holds after this one. -/
def missedCount (period : Option Nat) (due now : Nat) (r : Remaining) : Nat :=
  match period with
  | none => 0
  | some p =>
    let k := (now - due) / p
    match r with
    | .unlimited => k
    | .limited n => min k (n - 1)

/-- Whether an occurrence fires at a lateness (R37). -/
def Action.fires (a : Action) (lateness : Nat) : Bool := decide (lateness ≤ a.lateLimit) || a.latePolicy == .fireLate

/-- Whether a firing bears the late flag (R37). -/
def Action.late (a : Action) (lateness : Nat) : Bool := decide (a.lateLimit < lateness)

/-- The next due of a run after an occurrence, or none when the run ends (R40, R41). -/
def nextDueOf (a : Action) (due : Due) (missed : Nat) (left : Remaining) : Option Due :=
  match a.period with
  | none => none
  | some p =>
    if left = .limited 0 then none
    else
      let next := due.instant + (missed + 1) * p
      if next ≤ due.clock.lastInstant then some { due with instant := next } else none

/-- The fire instance of a firing (R42). -/
def fireInst (a : Action) (handle : Handle) (now lateness : Nat) : FireInst :=
  { handle := handle, tag := a.tag, output := a.output, busy := a.busy, fireReports := a.fireReports,
    doneReports := a.doneReports, followOn := a.followOn, fireInstant := now, lateness := saturate Config.max32 lateness }

/-- An event report offered when the action's fire reports are on (R44, R45). -/
def offerIf (on : Bool) (s : State) (r : Report) : State := if on then offer s r else s

/-- The completion of an instance with no channel, in the event that formed it (R43). -/
def completeEventOnly (s : State) (i : FireInst) : State :=
  let (s', outcome) := s.followOf i s.mono
  offerDones s' (i.done none .completed (some s.mono) s.mono 0 outcome)

/-- A firing (R42 to R44): the instance goes to its channel, whose DONE reports precede the FIRE report (R114); an
instance without a channel is completed behind its FIRE report. -/
def fireOccurrence (s : State) (a : Action) (o : Occurrence) (lateness : Nat) : State :=
  let i := fireInst a o.handle s.mono lateness
  match a.output with
  | some out =>
    let r := (s.chan out.channel).arrive out.channel s.mono i
    offerIf a.fireReports (offerDones (s.setChan out.channel r.channel) r.dones) (.fire o (a.late lateness) r.outcome)
  | none => completeEventOnly (offerIf a.fireReports s (.fire o (a.late lateness) .noChannel)) i

/-- An occurrence fires or is skipped, with its reports (R37, R44, R45). -/
def fireOrSkip (s : State) (a : Action) (o : Occurrence) (lateness : Nat) : State :=
  if a.fires lateness then fireOccurrence s a o lateness else offerIf a.fireReports s (.skip o)

/-- The slot is marked as having had an occurrence taken at this mono instant (R36). -/
def State.markTaken (s : State) (i : SlotId) : State := s.setSched { s.sched with taken := i :: s.sched.taken }

/-- The fired count after an occurrence (R37). -/
def firedAfter (fires : Bool) (n : Nat) : Nat := if fires then saturate Config.max32 (n + 1) else n

/-- The taking of a due list entry (R37 to R45). -/
def takeEntry (s : State) (i : SlotId) : State :=
  match (s.slot i).held with
  | none => s
  | some h =>
    match h.nextDue with
    | none => s
    | some due =>
      let now := s.now due.clock
      let lateness := now - due.instant
      let missed := missedCount h.action.period due.instant now h.remaining
      let left := h.remaining.minus (1 + missed)
      let next := nextDueOf h.action due missed left
      let h' := { h with remaining := left, fired := firedAfter (h.action.fires lateness) h.fired }
      let base := (s.markTaken i).uncollect i
      let moved := match next with
        | some d => base.pend i h' d
        | none => base.endRun i h'
      fireOrSkip moved h.action
        { handle := { slot := i, gen := (s.slot i).gen }, tag := h.action.tag, due := due, instant := s.mono,
          lateness := saturate Config.max32 lateness, missed := saturate Config.max16 missed, remaining := left,
          last := next.isNone }
        lateness

/-- The taking of a pattern occurrence (R102, R103). -/
def takeMatch (s : State) (m : Match) : State :=
  let i := m.slot
  match (s.slot i).held with
  | none => s
  | some h =>
    let left := h.remaining.minus 1
    let ends := left == .limited 0
    let h' := { h with remaining := left, fired := firedAfter (h.action.fires m.lateness) h.fired, lastFired := some m.second }
    let base := (s.markTaken i).setSched { (s.markTaken i).sched with found := s.sched.found.filter (·.slot != i) }
    let moved := if ends then base.endRun i h' else base.setHeld i h'
    fireOrSkip moved h.action
      { handle := { slot := i, gen := (s.slot i).gen }, tag := h.action.tag,
        due := { clock := .wall, instant := m.second * Config.secondFU }, instant := s.mono,
        lateness := saturate Config.max32 m.lateness, missed := 0, remaining := left, last := ends }
      m.lateness

def takeOne (s : State) : Taking → State
  | .entry i => takeEntry s i
  | .found m => takeMatch s m

/-- The taking of occurrences one at a time, as long as any is due (R35). -/
def takeLoop : Nat → State → State
  | 0, s => s
  | fuel + 1, s =>
    match s.nextTaking s.wallReach with
    | none => s
    | some t => takeLoop fuel (takeOne s t)

/-- Every occurrence due at this instant is taken, while the scheduler is RUNNING. A slot has at most one at an instant
(R36), so 256 are all. -/
def takeAll (s : State) : State := if s.sched.state = .running then takeLoop 256 s else s

/-! ### Calendar patterns -/

/-- Whether a pattern's fields accept a wall second: conditions 1 to 4 of R96. -/
def Pattern.accepts (p : Pattern) (c : Calendar) : Bool :=
  p.second.all (· == c.second) && p.minute.all (· == c.minute) && p.hour.all (· == c.hour)
    && (match p.day with
      | .any => true
      | .last => c.lastDay
      | .day n => n == c.day)
    && p.months.getLsbD (c.month - 1) && p.weekdays.getLsbD (c.weekday - 1)

/-- Whether a slot matches a wall second (R96), condition 5 being that the second is later than its last-fired one. -/
def Held.matches (h : Held) (second : Nat) : Bool :=
  match h.action.trigger with
  | .pattern p => p.accepts (calendarOfSecond second) && h.lastFired.all (· < second)
  | _ => false

/-- What an evaluation of a wall second finds (R98): the members that match it, less those that have had an occurrence taken
at this mono instant (R105). DESIGN CHOICE (log entry 29): it also leaves out a member whose occurrence from a running second
boundary of this instant has been found and not yet taken. R105 speaks only of an occurrence taken, and leaves that point
open. -/
def State.evaluate (s : State) (second : Nat) : List Match :=
  (s.sched.patterns.filter fun i =>
    (s.slot i).held.any (·.matches second) && !s.sched.taken.contains i && !s.sched.found.any (·.slot == i)).map
    fun i => { slot := i, second := second, lateness := s.wallNow - second * Config.secondFU }

/-- The offer of a wall second to the scheduler (R98): a RUNNING scheduler evaluates it, and the occurrences found become
due; any other takes no notice (R30). -/
def State.offerSecond (s : State) (second : Nat) : State :=
  if s.sched.state = .running then s.setSched { s.sched with found := s.sched.found ++ s.evaluate second } else s

/-! ### Captures and the loss of wall time -/

/-- The conversion of one slot of a capture-wait set (R140). -/
def convertSlot (edge : Nat) (s : State) (i : SlotId) : State :=
  match (s.slot i).held with
  | none => s
  | some h =>
    match h.action.trigger with
    | .onCapture _ delay rearm =>
      let remaining := match rearm with
        | .everyEdge => Remaining.ofCount h.action.count
        | .once => h.remaining
      (s.uncollect i).pend i { h with remaining := remaining } { clock := .mono, instant := edge + delay }
    | _ => s

/-- The conversion of an input's whole set by an accepted edge (R140). What is then due is taken by EXPIRY at the same mono
instant (R141, log entry 7). -/
def convert (s : State) (input : Fin 4) (edge : Nat) : State := s.sched.waits[input.val].foldl (convertSlot edge) s

/-- A wall-bound slot removed at the end of the wall range: IDLE, or FREE with auto-release on (R51). -/
def loseSlot (s : State) (i : SlotId) : State :=
  match (s.slot i).held with
  | none => s
  | some h => s.retire i h

/-- The slots that the loss of wall time removes (R51). -/
def Sched.wallBound (q : Sched) : List SlotId := q.wallDue ++ q.patterns

end Sys2Proof.Machine
end

