-- ==== Sys2Proof/Machine/WallOps.lean ====
section
/-! DEFINITION. The wall clock's shared operations (Chapter 4): ending a slew and a pending SNAP, the range end, taking
a wall change, rounding and applying a snap, and the instants at which wall time crosses a second or ends its range. -/

namespace Sys2Proof.Machine

/-- The opcode of ADJUST_TIME (table 11.3). -/
def opAdjust : Byte := 0x0B

/-- The opcode of SNAP_TIME (table 11.3). -/
def opSnap : Byte := 0x0C

/-- The completion of the deferred ADJUST with the amount applied so far, if a slew is in flight (R79, R174). -/
def State.adjustEnds (s : State) (status : Status) : List Completion :=
  match s.wall.slew, s.cmd.adjust with
  | some w, some d => [d.completion opAdjust status none (.applied w.applied)]
  | _, _ => []

/-- The completion of the deferred SNAP, if one is pending (R85, R174). -/
def State.snapEnds (s : State) (status : Status) (fieldNo : Option Nat) (r : Results) : List Completion :=
  match s.wall.snap, s.cmd.snap with
  | some _, some d => [d.completion opSnap status fieldNo r]
  | _, _ => []

/-- A slew in flight stops: its remainder is discarded, the offset keeps what was applied, a SLEWING wall is RUNNING, and
the deferred slot is emptied (R73, R79, R174). -/
def State.stopSlew (s : State) : State :=
  (s.setWall { s.wall with slew := none, state := if s.wall.state = .slewing then .running else s.wall.state }).setCmd
    { s.cmd with adjust := none }

/-- The pending SNAP becomes absent and its deferred slot is emptied (R84, R174). -/
def State.dropSnap (s : State) : State := (s.setWall { s.wall with snap := none }).setCmd { s.cmd with snap := none }

/-- The range end (R88, R89): slew and SNAP end, the wall-bound slots are removed, the wall is UNSET, WALL_LOST is
offered. -/
def rangeEnd (s : State) : State :=
  let stopped := s.stopSlew.dropSnap
  let removed := s.sched.wallBound.foldl loseSlot stopped
  let lost := removed.setWall { removed.wall with state := .unset, offset := 0, lastSecond := 0 }
  acceptAll s.queued (offer lost (.wallLost s.sched.wallBound.length Config.wallLast s.mono))
    (s.adjustEnds .superseded ++ s.snapEnds .cancelled none .noChange)

/-- What the scheduler does in the event of a wall change taken while there was wall time (R73): after a forward change
every due occurrence is taken (R47), after a backward one nothing comes due (R48); a landing second is offered, and what it
finds is taken in the same order (R87, R100). -/
def changeSchedule (s : State) (forward : Bool) (landing : Option Nat) : State :=
  match landing with
  | none => if forward then takeAll s else s
  | some second => if forward || !(s.evaluate second).isEmpty then takeAll (s.offerSecond second) else s

/-- A wall change to a wall instant (R73): it stops a slew, sets the offset, and, where there was wall time before, hands
the change to the scheduler with the landing second, if the whole second changes (R87). A change to the last FU of the range
meets the range end of that instant: either comes first, and when it is the range end, the landing second tests nothing
(R88, R106, log entry 28). -/
def wallChange (s : State) (new : Nat) : State × List Completion :=
  let stopped := s.stopSlew
  let moved := stopped.setWall
    { stopped.wall with state := .running, offset := (new : Int) - (s.mono : Int), lastSecond := wholeSecond new }
  let forward := decide (s.wallNow < new)
  let after :=
    if !s.wall.active then moved
    else if wholeSecond new = wholeSecond s.wallNow then changeSchedule moved forward none
    else if new = Config.wallLast then
      let chosen := moved.setChoices (s.choices + 1)
      if Config.rangeEndFirst s.choices then rangeEnd (changeSchedule chosen forward none)
      else changeSchedule chosen forward (some (wholeSecond new))
    else changeSchedule moved forward (some (wholeSecond new))
  (after, s.adjustEnds .superseded)

/-- The length of a snap's unit (R81). -/
def SnapUnit.length : SnapUnit → Nat
  | .second => Config.secondFU
  | .minute => Config.minuteFU

/-- A wall instant rounded to the nearest multiple of the unit, a half rounding up (R81). -/
def SnapUnit.round (u : SnapUnit) (wall : Nat) : Nat := (wall + u.length / 2) / u.length * u.length

/-- The good edge taken in LOCKED that the timebase offers: a pending SNAP is applied (R84). -/
def applySnap (s : State) : State :=
  match s.wall.snap with
  | none => s
  | some snap =>
    let rounded := snap.unit.round s.wallNow
    if rounded ≤ Config.wallLast then
      let own := s.snapEnds .ok none (.wallChanged rounded (some ((rounded : Int) - (s.wallNow : Int))))
      let (after, ended) := wallChange s.dropSnap rounded
      acceptAll s.queued after (ended ++ own)
    else acceptAll s.queued s.dropSnap (s.snapEnds .badField (some 1) .noChange)

/-- Whether wall time enters a new whole second at this mono instant by its own passage or by a slew step (R86). -/
def State.boundaryDue (s : State) : Bool :=
  !s.time.exhausted && s.wall.active && !s.stepDue && decide (s.wall.lastSecond < wholeSecond s.wallNow)

/-- Whether wall time is at the end of its range at this mono instant (R88). -/
def State.rangeEndDue (s : State) : Bool := !s.time.exhausted && s.wall.active && s.rangeEndHere

/-- Whether the pending SNAP's wait ends at this mono instant (R85). -/
def State.waitEndDue (s : State) : Bool := !s.time.exhausted && s.wall.snap.any fun w => w.waitEnd == s.mono

end Sys2Proof.Machine
end

