-- ==== Sys2Proof/Machine/PortOps.lean ====
section
/-! DEFINITION. The port controller's shared operations (Chapter 8): validation of the rings, the completed report write,
the drain, the halt and the soft reset with every block's part in them, and the writes of the register window. -/

namespace Sys2Proof.Machine

/-! ### The rings -/

/-- Whether a ring base is a multiple of 64 (R152). -/
def baseValid (base : Word) : Bool := base.toNat % 64 == 0

/-- Whether a ring size is a power of two from 16 to 4,096 and the ring ends within the 32-bit space (R152). -/
def sizeValid (base size : Word) : Bool :=
  [16, 32, 64, 128, 256, 512, 1024, 2048, 4096].contains size.toNat && decide (base.toNat + 32 * size.toNat ≤ 4294967296)

/-- The first ring register that fails validation (R152). -/
def Port.ringError (p : Port) : ConfigError :=
  if !baseValid p.crBase then .crBase
  else if !sizeValid p.crBase p.crSize then .crSize
  else if !baseValid p.rrBase then .rrBase
  else if !sizeValid p.rrBase p.rrSize then .rrSize
  else .none

/-! ### The halt -/

/-- The entry into HALTED at the first fault taken while the port is not HALTED, with every other block's part in it
(R156, R157, R33, R91, R131, R177, R186, R187). -/
def halt (s : State) (code : FaultCode) (address : Word) : State :=
  if s.port.state = .halted then s
  else
    let stopped := s.stopSlew.dropSnap
    ((((((stopped.setPort { s.port with state := .halted, faultCode := code, faultAddr := address, fetch := none }).setIrq
      s.irq.setFault).setCmd .reset).setReports
      { s.reports with records := [], reservations := 0, write := none }).setSched
      { s.sched with state := .halted }).setChans (s.chans.map Channel.park))

/-! ### The drain -/

/-- The drain is complete when the queue holds no record, no reservation is held and no fetch is in flight (R155). -/
def checkDrain (s : State) : State :=
  if s.port.state = .draining ∧ s.reports.records = [] ∧ s.reports.reservations = 0 ∧ s.port.fetch = none then
    s.setPort { s.port with state := .disabled }
  else s

/-- The completed write of the front record (R185): the record leaves the queue, RR_TAIL advances, the phase flips when it
advances to 0, and the interrupt unit counts the record (R189). The next write and a fetch start in the same event when
their conditions hold, and a drain is checked. -/
def recordWritten (s : State) : State :=
  let tail := nextIndex s.port.rrTail s.port.rrSize
  let written :=
    ((s.setPort { s.port with rrTail := tail, phase := if tail = 0 then !s.port.phase else s.port.phase }).setReports
      { s.reports with records := s.reports.records.tail, write := none }).setIrq (s.irq.countWritten s.mono)
  checkDrain (fetchIfReady (writeIfReady written))

/-! ### The soft reset -/

/-- A slot at a soft reset: one that is not FREE becomes FREE with its generation raised by one (R24). -/
def Slot.softReset (x : Slot) : Slot :=
  match x.held with
  | some _ => { gen := x.gen + 1, held := none }
  | none => x

/-- The scheduler at a soft reset: RUNNING, its collections empty (R52). What R36 remembers of the present mono instant
is kept, since the instant goes on (log entry 11). -/
def Sched.softReset (q : Sched) : Sched := { Sched.reset with taken := q.taken }

/-- A capture input at a soft reset: OFF, without a candidate; the rest is kept (R147). -/
def Capture.softReset (c : Capture) : Capture := { c with on := false, candidate := none }

/-- The soft reset (R163) with every block's part in it (R24, R52, R68, R92, R132, R147, R178, R186, R191). -/
def softResetAll (s : State) : State :=
  let stopped := s.stopSlew.dropSnap
  ((((((stopped.setPort .reset).setCmd .reset).setReports .reset).setIrq s.irq.softReset).setSlots
    (s.slots.map Slot.softReset)).setSched s.sched.softReset).setChans (s.chans.map Channel.park) |>.setCaps
    (s.caps.map Capture.softReset)

/-! ### The register writes -/

/-- ENABLE written as 1 (R149, R152). -/
def writeEnable1 (s : State) : State :=
  if s.port.state = .disabled then
    match s.port.ringError with
    | .none =>
      let ready := { s.port with configError := .none, crHead := 0, crTail := 0, rrHead := 0, rrTail := 0, phase := true }
      if s.time.exhausted then halt (s.setPort ready) .timelineEnd 0
      else s.setPort { ready with state := .running }
    | e => s.setPort { s.port with configError := e }
  else s

/-- ENABLE written as 0 (R149, R154): the entry into DRAINING ends a slew and a pending SNAP with CANCELLED completions
(R90), the write of one accepted into an empty queue starts (R184), and the drain is checked in the same event. -/
def writeEnable0 (s : State) : State :=
  if s.port.state = .running then
    let ended := s.adjustEnds .cancelled ++ s.snapEnds .cancelled none .noChange
    let draining := (s.setPort { s.port with state := .draining }).stopSlew.dropSnap
    checkDrain (writeOnAcceptance s.queued (acceptAll s.queued draining ended))
  else s

/-- A write to CR_TAIL (R158): a fetch whose conditions the stored value makes hold starts in the same event (R160). -/
def writeCrTail (s : State) (v : Word) : State :=
  if s.port.state = .running then
    if v.toNat < s.port.crSize.toNat then fetchIfReady (s.setPort { s.port with crTail := v.toNat })
    else halt s .tailRange 0
  else s

/-- How far an index lies ahead of the consumer index in a ring of a size (R159). -/
def ringDistance (consumer index size : Nat) : Nat := (index + size - consumer) % size

/-- A write to RR_HEAD (R159): a report write whose conditions the stored value makes hold starts in the same event (R184).
-/
def writeRrHead (s : State) (v : Word) : State :=
  if s.port.state = .running ∨ s.port.state = .draining then
    let size := s.port.rrSize.toNat
    if v.toNat < size ∧ ringDistance s.port.rrHead v.toNat size ≤ ringDistance s.port.rrHead s.port.rrTail size then
      writeIfReady (s.setPort { s.port with rrHead := v.toNat })
    else halt s .headRange 0
  else s

/-- A ring base or size register is stored while the port is DISABLED (R148). -/
def storeRing (s : State) (p : Port) : State := if s.port.state = .disabled then s.setPort p else s

/-- A write of a register of the window (R148, R149): read-only registers take none. -/
def writeRegister (s : State) (r : Reg) (v : Word) : State :=
  match r with
  | .devId | .devRev | .status | .faultCode | .faultAddr | .crHead | .rrTail => s
  | .crBase => storeRing s { s.port with crBase := v }
  | .crSize => storeRing s { s.port with crSize := v }
  | .rrBase => storeRing s { s.port with rrBase := v }
  | .rrSize => storeRing s { s.port with rrSize := v }
  | .control =>
    if v.getLsbD 1 then softResetAll s else if v.getLsbD 0 then writeEnable1 s else writeEnable0 s
  | .crTail => writeCrTail s v
  | .rrHead => writeRrHead s v
  | .intStatus => s.setIrq (s.irq.writeStatus v)
  | .intEnable => s.setIrq (s.irq.writeEnable v)
  | .intModeration => s.setIrq (s.irq.writeModeration v s.mono)

end Sys2Proof.Machine
end

