-- ==== Sys2Proof/Machine/ActionCommands.lean ====
section
/-! DEFINITION. The carry-outs of the command unit, the action table and the scheduler: NOP, an unknown opcode,
DEFINE_ACTION with the end of its descriptor read, ARM, DISARM, RELEASE, QUERY_ACTION, SUSPEND, RESUME. -/

namespace Sys2Proof.Machine

/-- A step of the part that takes place: the next state. -/
abbrev Next := Host.Outcome State Fault Refusal

/-- NOP: nothing changes, and the completion is OK without results (R168). -/
def execNop (s : State) : Next := .next (carryOut 0x00 s fun _ s => okWith s .none)

/-- An opcode that names none of the nineteen commands (R168, R195). -/
def execBadOpcode (s : State) : Next :=
  .next
    (match s.cmd.state with
    | .holding c => if 0x12 < c.opcode.toNat then finish s.queued c (refuseWith s .badOpcode .none) else s
    | _ => s)

/-! ### Defining -/

/-- DEFINE_ACTION: the 64 bytes at the descriptor address are read, if they can be addressed (R6, R171). -/
def execDefineAction (s : State) : Next :=
  .next
    (match s.cmd.state with
    | .holding c =>
      if c.opcode = 0x01 then
        if 4294967296 < descriptorAddress c.record + 64 then finish s.queued c (refuseWith s .descriptorFault .none)
        else s.setCmd { s.cmd with state := .reading c }
      else s
    | _ => s)

/-- The lowest-numbered FREE slot (R13). -/
def State.freeSlot? (s : State) : Option SlotId := (List.finRange 256).find? fun i => (s.slot i).held.isNone

/-- The validation of the received bytes and the filling of a slot (R7, R13). -/
def defineFrom (s : State) (d : Descriptor) : Answer :=
  match validateDescriptor d with
  | .error n => badField s n .none
  | .ok a =>
    match s.freeSlot? with
    | none => refuseWith s .tableFull .none
    | some i => okWith (s.setHeld i (.fresh a)) (.defined { slot := i, gen := (s.slot i).gen })

/-- The end of the descriptor read (R172); the end of an abandoned one has no effect. -/
def execDescriptorReadEnd (ending : BusEnd 512) (s : State) : Next :=
  .next
    (match s.cmd.state with
    | .reading c =>
      match ending with
      | .error => finish s.queued c (refuseWith s .descriptorFault .none)
      | .data d => finish s.queued c (defineFrom s d)
    | _ => s)

/-! ### Arming, disarming, releasing, querying -/

/-- Whether a trigger needs wall time to be armed (R15). -/
def Trigger.wallBound : Trigger → Bool
  | .atWall _ => true
  | .pattern _ => true
  | _ => false

/-- ARM's effect and answer (R4, R15): a due that has already passed is placed like any other, and EXPIRY takes it at the
same mono instant (log entry 7). -/
def armOwner (c : InHand) (s : State) : Answer :=
  let h := handleAt c.record 4
  match s.live h with
  | none => refuseWith s .badHandle (.handleOnly h)
  | some x =>
    if x.state ≠ .idle then refuseWith s .wrongState (.stateFound h x.state)
    else if x.action.trigger.wallBound && !s.wall.active then refuseWith s .wallUnset (.handleOnly h)
    else
      let placed := s.armSlot h.slot x.action s.mono
      okWith placed
        (.armed h (placed.slot h.slot).state ((placed.slot h.slot).held.bind Held.nextDue))

/-- ARM (R15). -/
def execArm (s : State) : Next := .next (carryOut 0x02 s armOwner)

/-- The channel's part of a DISARM (R16, R124): the state after, the waiting and the running instances withdrawn. -/
def withdrawFrom (s : State) (h : Handle) (output : Option Output) (option : Withdraw) : State × Nat × Nat :=
  match output, option with
  | some out, .queued =>
    let w := (s.chan out.channel).withdraw out.channel s.mono h false
    (offerDones (s.setChan out.channel w.channel) w.dones, w.waiting, w.running)
  | some out, .all =>
    let w := (s.chan out.channel).withdraw out.channel s.mono h true
    (offerDones (s.setChan out.channel w.channel) w.dones, w.waiting, w.running)
  | _, _ => (s, 0, 0)

/-- DISARM's effect and answer (R4, R16). -/
def disarmOwner (c : InHand) (s : State) : Answer :=
  let h := handleAt c.record 4
  match s.live h with
  | none => refuseWith s .badHandle (.handleOnly h)
  | some x =>
    match withdrawOf c.record with
    | .error n => badField s n (.handleOnly h)
    | .ok option =>
      let (after, waiting, running) := withdrawFrom (s.idle h.slot x) h x.action.output option
      okWith after (.disarmed h x.state waiting running)

/-- DISARM (R16). -/
def execDisarm (s : State) : Next := .next (carryOut 0x03 s disarmOwner)

/-- RELEASE's effect and answer (R4, R18). -/
def releaseOwner (c : InHand) (s : State) : Answer :=
  let h := handleAt c.record 4
  match s.live h with
  | none => refuseWith s .badHandle (.handleOnly h)
  | some x =>
    if x.state ≠ .idle then refuseWith s .wrongState (.stateFound h x.state)
    else okWith (s.freeSlot h.slot) (.handleOnly h)

/-- RELEASE (R18). -/
def execRelease (s : State) : Next := .next (carryOut 0x04 s releaseOwner)

/-- What QUERY_ACTION reports of a live action (R19). -/
def queryOf (s : State) (h : Handle) (x : Held) : QueryResult :=
  { handle := h
    state := x.state
    nextDue := if x.state = .pending then x.nextDue else none
    lastFired := if x.action.trigger.isPattern then x.lastFired else none
    fired := x.fired
    remaining := x.remaining
    counts := x.action.output.map fun out => ((s.chan out.channel).waitingOf h, (s.chan out.channel).runs h) }

/-- QUERY_ACTION's answer (R4, R19). -/
def queryOwner (c : InHand) (s : State) : Answer :=
  let h := handleAt c.record 4
  match s.live h with
  | none => refuseWith s .badHandle (.handleOnly h)
  | some x => okWith s (.queried (queryOf s h x))

/-- QUERY_ACTION (R19). -/
def execQueryAction (s : State) : Next := .next (carryOut 0x05 s queryOwner)

/-! ### Suspending and resuming -/

/-- SUSPEND's effect and answer (R31). -/
def suspendOwner (_ : InHand) (s : State) : Answer :=
  if s.sched.state = .running then okWith (s.setSched { s.sched with state := .suspended }) .none
  else refuseWith s .wrongState .none

/-- SUSPEND (R31). -/
def execSuspend (s : State) : Next := .next (carryOut 0x06 s suspendOwner)

/-- The entry into RUNNING by a RESUME (R32, R101): every due occurrence is taken, then the pattern set evaluates the current
wall second and what it finds is taken. Nothing found before the suspension is left. -/
def resumed (s : State) : State :=
  let begun := takeAll (s.setSched { s.sched with state := .running, found := [] })
  if s.wall.active then takeAll (begun.offerSecond (wholeSecond s.wallNow)) else begun

/-- RESUME's effect and answer (R32). -/
def resumeOwner (_ : InHand) (s : State) : Answer :=
  if s.sched.state = .suspended then okWith (resumed s) .none
  else refuseWith s .wrongState .none

/-- RESUME (R32). -/
def execResume (s : State) : Next := .next (carryOut 0x07 s resumeOwner)

end Sys2Proof.Machine
end

