-- ==== Sys2Proof/Machine/ClockCommands.lean ====
section
/-! DEFINITION. The carry-outs of the wall clock and the timebase: READ_TIME, SET_TIME, STEP_TIME, ADJUST_TIME,
SNAP_TIME, CONFIG_REFERENCE. -/

namespace Sys2Proof.Machine

/-- READ_TIME's answer (R72). -/
def readTimeOwner (_ : InHand) (s : State) : Answer :=
  okWith s
    (.time { mono := s.mono, wall := if s.wall.active then some s.wallNow else none, state := s.wall.state,
             disc := s.time.disc.state })

/-- READ_TIME (R72). -/
def execReadTime (s : State) : Next := .next (carryOut 0x08 s readTimeOwner)

/-- A wall change made by a command, answered OK with the new wall instant and the change (R73 to R75, R82). -/
def changeWith (s : State) (new : Nat) (change : Option Int) : Answer :=
  let (after, ended) := wallChange s new
  { state := after, reply := .now .ok none (.wallChanged new change), ended := ended }

/-- SET_TIME's effect and answer (R74); the change is absent when the wall was UNSET. -/
def setTimeOwner (c : InHand) (s : State) : Answer :=
  match setTimeInstant c.record with
  | .error n => badField s n .none
  | .ok new => changeWith s new (if s.wall.active then some ((new : Int) - (s.wallNow : Int)) else none)

/-- SET_TIME (R74). -/
def execSetTime (s : State) : Next := .next (carryOut 0x09 s setTimeOwner)

/-- Wall now plus a signed amount, if it lies within the wall range (R75, R76). -/
def State.wallPlus (s : State) (delta : Int) : Option Nat :=
  let new := (s.wallNow : Int) + delta
  if 0 ≤ new ∧ new ≤ (Config.wallLast : Int) then some new.toNat else none

/-- STEP_TIME's effect and answer (R75). -/
def stepTimeOwner (c : InHand) (s : State) : Answer :=
  if !s.wall.active then refuseWith s .wallUnset .none
  else
    match s.wallPlus (deltaOf c.record) with
    | none => badField s 1 .none
    | some new => changeWith s new (some (deltaOf c.record))

/-- STEP_TIME (R75). -/
def execStepTime (s : State) : Next := .next (carryOut 0x0A s stepTimeOwner)

/-- The beginning of a slew, with the ADJUST deferred (R77, R173). -/
def beginSlew (s : State) (c : InHand) (delta : Int) : State :=
  (s.setWall
    { s.wall with state := .slewing,
                  slew := some { delta := delta, remainder := delta, applied := 0, nextStep := s.mono + Config.stepFU } }).setCmd
    { s.cmd with adjust := some { tag := c.tag, index := c.index } }

/-- ADJUST_TIME's effect and answer (R76, R77); while DRAINING it is CANCELLED at once (R90). -/
def adjustTimeOwner (c : InHand) (s : State) : Answer :=
  let delta := deltaOf c.record
  if delta = 0 ∨ Config.adjustMax < delta.natAbs then badField s 1 .none
  else if !s.wall.active then refuseWith s .wallUnset .none
  else if s.wall.slew.isSome then refuseWith s .busy .none
  else if (s.wallPlus delta).isNone then badField s 1 .none
  else if s.port.state = .draining then refuseWith s .cancelled (.applied 0)
  else { state := beginSlew s c delta, reply := .later, ended := [] }

/-- ADJUST_TIME (R76). -/
def execAdjustTime (s : State) : Next := .next (carryOut opAdjust s adjustTimeOwner)

/-- SNAP_TIME with source NOW (R82). -/
def snapNow (s : State) (unit : SnapUnit) : Answer :=
  if !s.wall.active then refuseWith s .wallUnset .none
  else
    let rounded := unit.round s.wallNow
    if Config.wallLast < rounded then badField s 1 .noChange
    else changeWith s rounded (some ((rounded : Int) - (s.wallNow : Int)))

/-- The SNAP becomes pending and is deferred (R83, R173). -/
def beginSnap (s : State) (c : InHand) (unit : SnapUnit) (limit : Nat) : State :=
  (s.setWall { s.wall with snap := some { unit := unit, waitEnd := s.mono + limit * Config.secondFU } }).setCmd
    { s.cmd with snap := some { tag := c.tag, index := c.index } }

/-- SNAP_TIME with source NEXT_REF (R82, R83); while DRAINING it is CANCELLED at once (R90). -/
def snapNextRef (s : State) (c : InHand) (unit : SnapUnit) (limit : Nat) : Answer :=
  if s.time.disc.state = .off then refuseWith s .noReference .none
  else if s.wall.snap.isSome then refuseWith s .busy .none
  else if !s.wall.active then refuseWith s .wallUnset .none
  else if s.port.state = .draining then refuseWith s .cancelled .noChange
  else { state := beginSnap s c unit limit, reply := .later, ended := [] }

/-- SNAP_TIME's effect and answer (table 4.5). -/
def snapTimeOwner (c : InHand) (s : State) : Answer :=
  match snapRequestOf c.record with
  | .error n => badField s n .noChange
  | .ok (.now unit) => snapNow s unit
  | .ok (.nextRef unit limit) => snapNextRef s c unit limit

/-- SNAP_TIME (R82). -/
def execSnapTime (s : State) : Next := .next (carryOut opSnap s snapTimeOwner)

/-- The REFERENCE report of a change of discipline state, if there is one (R66). -/
def offerReference (s : State) (old : DiscState) : State :=
  let t := s.time
  if old = t.disc.state then s
  else offer s (.reference { old := old, new := t.disc.state, trim := t.trim, lastError := t.disc.lastError, instant := t.mono })

/-- The timebase after a valid CONFIG_REFERENCE (R65). -/
def Timebase.configure (t : Timebase) (f : ReferenceFields) : Timebase :=
  { t with
    trim := f.trim.getD t.trim
    disc := { state := if f.on then .acquire else .off, window := f.window, lockCount := f.lockCount,
              missLimit := f.missLimit, expect := none, good := 0, miss := 0, lastError := 0,
              holdoverAt := none } }

/-- CONFIG_REFERENCE's effect and answer (R64, R65): a pending SNAP completes CANCELLED. -/
def configReferenceOwner (c : InHand) (s : State) : Answer :=
  match referenceFieldsOf c.record with
  | .error n => badField s n .none
  | .ok f =>
    let found := s.time.disc.state
    let configured := s.dropSnap.setTime (s.time.configure f)
    { state := offerReference configured found
      reply := .now .ok none (.reference found configured.time.disc.state configured.time.trim)
      ended := s.snapEnds .cancelled none .noChange }

/-- CONFIG_REFERENCE (R65). -/
def execConfigReference (s : State) : Next := .next (carryOut 0x0D s configReferenceOwner)

end Sys2Proof.Machine
end

