-- ==== Sys2Proof/Machine/LineCommands.lean ====
section
/-! DEFINITION. The carry-outs of the output channels and the capture inputs: CONFIG_CHANNEL, FLUSH_CHANNEL,
CHANNEL_STATUS, CONFIG_CAPTURE, CAPTURE_STATUS. -/

namespace Sys2Proof.Machine

/-- How many instances run in a channel: 0 or 1. -/
def Channel.runningCount (c : Channel) : Nat := if c.running.isSome then 1 else 0

/-- CONFIG_CHANNEL's effect on its channel and its status (the table of R127). -/
def Channel.configure (c : Channel) (f : ChannelFields) : Channel × Status :=
  if f.enable then
    match c.state with
    | .disabled | .idle => ({ c with state := .idle, parked := f.parked, level := f.initial }, .ok)
    | .pulse | .space => ({ c with parked := f.parked }, .busy)
  else ({ c.emptied .disabled with parked := f.parked, level := f.parked }, .ok)

/-- CONFIG_CHANNEL's effect and answer (R127). -/
def configChannelOwner (c : InHand) (s : State) : Answer :=
  match channelFieldsOf c.record with
  | .error n => badField s n .none
  | .ok f =>
    let found := s.chan f.channel
    let (after, status) := found.configure f
    let dones := if f.enable then [] else found.clearReports f.channel s.mono
    let aborted := if f.enable then 0 else found.runningCount
    let discarded := if f.enable then 0 else found.queue.length
    { state := offerDones (s.setChan f.channel after) dones
      reply := .now status none (.channelSet found.state aborted discarded after.level after.line)
      ended := [] }

/-- CONFIG_CHANNEL (R127). -/
def execConfigChannel (s : State) : Next := .next (carryOut 0x0E s configChannelOwner)

/-- A channel cleared: a DISABLED one stays DISABLED, any other enters IDLE (R128). -/
def Channel.flushed (c : Channel) : Channel := if c.state = .disabled then c else c.emptied .idle

/-- FLUSH_CHANNEL's effect and answer (R128). -/
def flushChannelOwner (c : InHand) (s : State) : Answer :=
  match channelNumberOf c.record with
  | .error n => badField s n .none
  | .ok ch =>
    let found := s.chan ch
    okWith (offerDones (s.setChan ch found.flushed) (found.clearReports ch s.mono))
      (.channelFlushed found.runningCount found.queue.length)

/-- FLUSH_CHANNEL (R128). -/
def execFlushChannel (s : State) : Next := .next (carryOut 0x0F s flushChannelOwner)

/-- What CHANNEL_STATUS reports (R129). -/
def Channel.read (c : Channel) : ChannelResult :=
  { enabled := c.enabled, state := c.state, level := c.level, parked := c.parked, line := c.line,
    running := c.runningHandle, waiting := c.queue.map FireInst.handle }

/-- CHANNEL_STATUS's answer (R129). -/
def channelStatusOwner (c : InHand) (s : State) : Answer :=
  match channelNumberOf c.record with
  | .error n => badField s n .none
  | .ok ch => okWith s (.channelRead (s.chan ch).read)

/-- CHANNEL_STATUS (R129). -/
def execChannelStatus (s : State) : Next := .next (carryOut 0x10 s channelStatusOwner)

/-- A capture input after CONFIG_CAPTURE: its counts start anew and the filter restarts from the line level (R145). -/
def Capture.configure (k : Capture) (f : CaptureFields) : Capture :=
  { on := f.on, select := f.select, filter := f.filter, report := f.report, line := k.line, filtered := k.line,
    candidate := none, count := 0, last := none, movedAt := k.movedAt }

/-- CONFIG_CAPTURE's effect and answer (R145). -/
def configCaptureOwner (c : InHand) (s : State) : Answer :=
  match captureFieldsOf c.record with
  | .error n => badField s n .none
  | .ok f =>
    let found := s.cap f.input
    okWith (s.setCap f.input (found.configure f)) (.captureSet found.on found.line found.count found.last)

/-- CONFIG_CAPTURE (R145). -/
def execConfigCapture (s : State) : Next := .next (carryOut 0x11 s configCaptureOwner)

/-- CAPTURE_STATUS's answer (R146). DESIGN CHOICE (unsafe, log entry 30): the line level is the one that stands when the
command is carried out, so that a CAPTURE_STATUS taken before a TRANSITION of the same mono instant answers the level before
that transition. -/
def captureStatusOwner (c : InHand) (s : State) : Answer :=
  match inputNumberOf c.record with
  | .error n => badField s n .none
  | .ok input =>
    let k := s.cap input
    okWith s (.captureRead k.line k.count k.last (s.sched.waits[input.val]).length)

/-- CAPTURE_STATUS (R146). -/
def execCaptureStatus (s : State) : Next := .next (carryOut 0x12 s captureStatusOwner)

end Sys2Proof.Machine
end

