-- ==== Sys2Proof/Machine/PortEvents.lean ====
section
/-! DEFINITION. The steps of the host port: the bus transactions, the register writes, the soft reset and the power-on
reset. -/

namespace Sys2Proof.Machine

/-- FETCH_START (R160): the reservation and the read belong to one event, and while a condition fails none starts. The event
that makes the last condition hold contains the start, so that from reset this row finds nothing left to start (log entry 4).
-/
def execFetchStart (s : State) : Next := .next (fetchIfReady s)

/-- The command is taken at the end of its fetch, and CR_HEAD advances (R161, R166). -/
def takeCommand (s : State) (r : Record) : State :=
  (s.setPort { s.port with crHead := nextIndex s.port.crHead s.port.crSize, fetch := none }).setCmd
    { s.cmd with state := .holding { record := r, index := s.port.crHead } }

/-- A fetch discarded at its end because the port has left RUNNING: its reservation is given back, and the drain is
checked (R161, R181). -/
def discardFetch (s : State) : State :=
  checkDrain
    ((s.setPort { s.port with fetch := none }).setReports { s.reports with reservations := s.reports.reservations - 1 })

/-- FETCH_END (R161); the end of an abandoned fetch has no effect. -/
def execFetchEnd (ending : BusEnd 256) (s : State) : Next :=
  .next
    (if s.port.fetch = none then s
     else if s.port.state = .running then
       match ending with
       | .data r => takeCommand s r
       | .error => halt s .fetchError (entryAddress s.port.crBase s.port.crHead)
     else discardFetch s)

/-- REPORT_WRITE_START (R184); while a condition fails no write starts. The event that makes the last condition hold contains
the start, so that from reset this row finds nothing left to start (log entry 4). -/
def execReportWriteStart (s : State) : Next := .next (writeIfReady s)

/-- REPORT_WRITE_END (R185); the end of an abandoned write has no effect. -/
def execReportWriteEnd (busError : Bool) (s : State) : Next :=
  .next
    (if s.reports.write = none then s
     else if busError then halt s .reportWriteError (entryAddress s.port.rrBase s.port.rrTail)
     else recordWritten s)

/-- ENABLE_WRITE_1 (R152). -/
def execEnableWrite1 (s : State) : Next := .next (writeEnable1 s)

/-- ENABLE_WRITE_0 (R154). -/
def execEnableWrite0 (s : State) : Next := .next (writeEnable0 s)

/-- SOFT_RESET (R163); the ENABLE value of that write is not acted on (R149). -/
def execSoftReset (_enable : Bool) (s : State) : Next := .next (softResetAll s)

/-- CR_TAIL_WRITE (R158). -/
def execCrTailWrite (value : Word) (s : State) : Next := .next (writeCrTail s value)

/-- RR_HEAD_WRITE (R159). -/
def execRrHeadWrite (value : Word) (s : State) : Next := .next (writeRrHead s value)

/-- INT_STATUS_WRITE (R187). -/
def execIntStatusWrite (value : Word) (s : State) : Next := .next (s.setIrq (s.irq.writeStatus value))

/-- INT_ENABLE_WRITE (R188). -/
def execIntEnableWrite (value : Word) (s : State) : Next := .next (s.setIrq (s.irq.writeEnable value))

/-- INT_MODERATION_WRITE (R190). -/
def execIntModerationWrite (value : Word) (s : State) : Next := .next (s.setIrq (s.irq.writeModeration value s.mono))

/-- REGISTER_WRITE (R148): the write goes to the register at the offset; at an offset without one the model stops. -/
def execRegisterWrite (offset : Nat) (value : Word) (s : State) : Next :=
  match Reg.ofOffset offset with
  | some r => .next (writeRegister s r value)
  | none => .fault (.noSuchRegister offset)

/-- POWER_ON_RESET (R23, R52, R67, R93, R133, R147, R164, R178, R186, R191): every block takes its power-on values, the
capture lines being as sampled at its end. The commands that wait in the model's queue still come. -/
def execPowerOnReset (lines : Vector Level 4) (s : State) : Next := .next (.powerOn lines s.choices s.pending)

end Sys2Proof.Machine
end

