-- ==== Sys2Proof/Machine/TimeEvents.lean ====
section
/-! DEFINITION. The steps that the inputs and the passage of time bring: reference edges and windows, capture
transitions and acceptances, expiries, second boundaries, slew steps, wait and range ends, phase ends, the moderation
expiry, the exhaustion of mono time, and the fine unit itself. An event whose instant has not come does not arise, and
changes nothing (log entry 2). Where an event accepts a record into an empty report queue, the write of it starts in the same
event (R184). -/

namespace Sys2Proof.Machine

/-! ### The reference -/

/-- Whether an edge instant lies within the window of an expected instant (R57). -/
def Discipline.within (d : Discipline) (expected edge : Nat) : Bool :=
  decide (expected ≤ edge + d.window) && decide (edge ≤ expected + d.window)

/-- A trim clamped to its range (R56, R60). -/
def clampTrim (t : Int) : Int := max (-Config.trimMax) (min Config.trimMax t)

/-- After an edge taken in ACQUIRE or HOLDOVER, LOCKED is entered when the good count has reached the lock count (R59,
R61). -/
def Discipline.lockIfReached (d : Discipline) : Discipline :=
  if d.lockCount ≤ d.good then { d with state := .locked, miss := 0 } else d

/-- An edge judged in ACQUIRE or HOLDOVER (R59, R61): a good one carries the run on, any other begins it anew. The edge of
the instant at which a close has entered HOLDOVER has just missed that window, and is stray (R62). -/
def Discipline.seekEdge (d : Discipline) (edge : Nat) : Discipline :=
  let next := some (edge + Config.secondFU)
  if d.state = .holdover ∧ d.holdoverAt = some edge then d
  else
    match d.expect with
    | some x =>
      if d.within x edge then
        { d with good := d.good + 1, lastError := (edge : Int) - (x : Int), expect := next }.lockIfReached
      else { d with good := 1, expect := next }.lockIfReached
    | none => { d with good := 1, expect := next }.lockIfReached

/-- A REF edge at mono now, and whether it is offered to the wall clock (R57, R60, R63). -/
def Timebase.edge (t : Timebase) : Timebase × Bool :=
  match t.disc.state with
  | .off => (t, false)
  | .acquire | .holdover => ({ t with disc := t.disc.seekEdge t.mono }, false)
  | .locked =>
    match t.disc.expect with
    | some x =>
      if t.disc.within x t.mono then
        let e := (t.mono : Int) - (x : Int)
        ({ t with trim := clampTrim (t.trim + 16 * e),
                  disc := { t.disc with lastError := e, expect := some (t.mono + Config.secondFU), miss := 0 } }, true)
      else (t, false)
    | none => (t, false)

/-- REF_EDGE (R57, R63, R66, R84). -/
def execRefEdge (s : State) : Next :=
  let (t, offered) := s.time.edge
  let judged := offerReference (s.setTime t) s.time.disc.state
  .next (writeOnAcceptance s.queued (if offered then applySnap judged else judged))

/-- Whether the window of the expectation closes at this mono instant (R57). -/
def Timebase.closeDue (t : Timebase) : Bool :=
  !t.exhausted && t.disc.state != .off && t.disc.expect.any fun x => t.mono == x + t.disc.window + 1

/-- The close of a window at a mono instant (R59 to R61). -/
def Discipline.close (d : Discipline) (now : Nat) : Discipline :=
  match d.state with
  | .off => d
  | .acquire => { d with expect := none, good := 0 }
  | .locked =>
    let missed := { d with miss := d.miss + 1, expect := d.expect.map (· + Config.secondFU) }
    if d.missLimit ≤ d.miss + 1 then { missed with state := .holdover, good := 0, holdoverAt := some now }
    else missed
  | .holdover => { d with good := 0, expect := d.expect.map (· + Config.secondFU) }

/-- WINDOW_CLOSE (R57, R66). -/
def execWindowClose (s : State) : Next :=
  .next
    (if s.time.closeDue then
       writeOnAcceptance s.queued
         (offerReference (s.setTime { s.time with disc := s.time.disc.close s.mono }) s.time.disc.state)
     else s)

/-! ### Capture inputs -/

/-- The polarity of a transition to a level (R134). -/
def polarityTo : Level → Polarity
  | .high => .rising
  | .low => .falling

/-- Whether a polarity is selected (R136). -/
def EdgeSelect.selects : EdgeSelect → Polarity → Bool
  | .rising, p => p == .rising
  | .falling, p => p == .falling
  | .both, _ => true

/-- The wall edge instant of a CAPTURE report: absent while the wall is UNSET or when the sum lies below 0 (R138). -/
def State.wallOf (s : State) (instant : Nat) : Option Nat :=
  let sum := (instant : Int) + s.wall.offset
  if s.wall.active && decide (0 ≤ sum) then some sum.toNat else none

/-- What an accepted edge does (R137): it is counted and recorded, reported unless the port is HALTED, and handed to the
scheduler unless that is HALTED. -/
def acceptedEdge (s : State) (input : Fin 4) (instant : Nat) (p : Polarity) : State :=
  let k := s.cap input
  let number := (k.count + 1) % 4294967296
  let counted := s.setCap input { k with count := number, last := some { instant := instant, polarity := p } }
  let reported :=
    if k.report && s.port.state != .halted then
      offer counted (.capture { input := input, polarity := p, instant := instant, wall := s.wallOf instant, number := number })
    else counted
  if s.sched.state = .halted then reported else convert reported input instant

/-- The acceptance of a candidate (R135, R136). -/
def acceptCandidate (s : State) (input : Fin 4) (x : Candidate) : State :=
  let k := s.cap input
  let believed := s.setCap input { k with filtered := x.level, candidate := none }
  if k.select.selects (polarityTo x.level) then acceptedEdge believed input x.instant (polarityTo x.level) else believed

/-- TRANSITION (R134, R135): the line takes its other level, at most once at a mono instant; while the mode is ON the filter
takes it as a candidate or as a return, and with filter time 0 accepts it in the same event. -/
def execTransition (input : Fin 4) (s : State) : Next :=
  .next
    (if s.time.exhausted || (s.cap input).movedAt == some s.mono then s
     else
       let k := { s.cap input with line := (s.cap input).line.flip, movedAt := some s.mono }
       if !k.on then s.setCap input k
       else if k.candidate.isSome then s.setCap input { k with candidate := none }
       else if k.line = k.filtered then s.setCap input k
       else
         let x : Candidate := { level := k.line, instant := s.mono, acceptAt := s.mono + k.filter }
         let seen := s.setCap input { k with candidate := some x }
         if k.filter = 0 then writeOnAcceptance s.queued (acceptCandidate seen input x) else seen)

/-- Whether a candidate's acceptance instant has come (R135). -/
def Capture.acceptDue (k : Capture) (now : Nat) : Bool := k.on && k.candidate.any fun x => x.acceptAt == now

/-- ACCEPTANCE (R135 to R141). -/
def execAcceptance (input : Fin 4) (s : State) : Next :=
  .next
    (if !s.time.exhausted && (s.cap input).acceptDue s.mono then
       match (s.cap input).candidate with
       | some x => writeOnAcceptance s.queued (acceptCandidate s input x)
       | none => s
     else s)

/-! ### The scheduler and the wall clock -/

/-- One slew step (R78): the offset moves by one FU towards the target. -/
def Slew.step (w : Slew) : Slew :=
  { w with remainder := w.remainder - w.remainder.sign, applied := w.applied + w.remainder.sign,
           nextStep := w.nextStep + Config.stepFU }

/-- The wall clock after one step of a slew (R78). -/
def State.stepped (s : State) (w : Slew) : State :=
  s.setWall { s.wall with offset := s.wall.offset + w.remainder.sign, slew := some w.step }

/-- The part with the slew step of this instant taken, if one is due. -/
def State.withStep (s : State) : State :=
  match s.wall.slew with
  | some w => if s.stepDue then s.stepped w else s
  | none => s

/-- The part with the second boundary of this instant evaluated, if one is due. -/
def State.withBoundary (s : State) : State := if s.boundaryDue then s.offerSecond (wholeSecond s.wallNow) else s

/-- The part with what makes wall-bound occurrences due at this instant taken: the slew step and then the second boundary.
The order of the instant's occurrences is judged in it (R35, R50, R98, log entry 8). -/
def State.foreseen (s : State) : State := s.withStep.withBoundary

/-- EXPIRY (R35): the scheduler takes the occurrence that comes first among those due at this mono instant. It waits where
that is an entry that only the slew step makes due, or a pattern occurrence of a second boundary, and the step or the
boundary has still to be taken (R50, R98). -/
def execExpiry (s : State) : Next :=
  .next
    (if s.sched.state = .running then
       match s.foreseen.nextTaking s.foreseen.expiryReach with
       | some (.entry i) =>
         if s.sched.monoDue.contains i || s.entryDue s.expiryReach .wall i then writeOnAcceptance s.queued (takeEntry s i)
         else s
       | some (.found m) => if s.sched.found.contains m then writeOnAcceptance s.queued (takeMatch s m) else s
       | none => s
     else s)

/-- RUNNING_SECOND_BOUNDARY (R86, R99): the new whole second is offered to the scheduler. What its evaluation finds is taken
by EXPIRY at the same mono instant (R98, R106, log entry 7). -/
def execRunningSecondBoundary (s : State) : Next :=
  .next
    (if s.boundaryDue then
       (s.setWall { s.wall with lastSecond := wholeSecond s.wallNow }).offerSecond (wholeSecond s.wallNow)
     else s)

/-- SLEW_STEP (R78): a step that brings the remainder to 0 completes the ADJUST_TIME. -/
def execSlewStep (s : State) : Next :=
  .next
    (if s.stepDue then
       match s.wall.slew with
       | some w =>
         let moved := s.stepped w
         if w.step.remainder = 0 then
           writeOnAcceptance s.queued (acceptAll s.queued moved.stopSlew (moved.adjustEnds .ok))
         else moved
       | none => s
     else s)

/-- WAIT_END (R85): the pending SNAP completes TIMEOUT. -/
def execWaitEnd (s : State) : Next :=
  .next
    (if s.waitEndDue then
       writeOnAcceptance s.queued (acceptAll s.queued s.dropSnap (s.snapEnds .timeout none .noChange))
     else s)

/-- RANGE_END (R88). -/
def execRangeEnd (s : State) : Next := .next (if s.rangeEndDue then writeOnAcceptance s.queued (rangeEnd s) else s)

/-! ### Channels, interrupts, the timebase -/

/-- The completion of the running instance (R118): its follow-on request, its DONE report, the start of the next waiting
instance. A follow-on armed with a delay of 0 is due at this instant, and EXPIRY takes it (R36, R131, log entry 7). -/
def completeRunning (s : State) (ch : Fin 8) (r : Running) : State :=
  let (asked, outcome) := s.followOf r.inst s.mono
  let told := offerDones asked (r.inst.done (some ch) .completed (some r.start) s.mono r.pulses outcome)
  told.setChan ch ((told.chan ch).startNext s.mono)

/-- PHASE_END (R117). -/
def execPhaseEnd (channel : Fin 8) (s : State) : Next :=
  .next
    (if !s.time.exhausted && (s.chan channel).phaseDue s.mono then
       match (s.chan channel).nextPhase s.mono, (s.chan channel).running with
       | some c, _ => s.setChan channel c
       | none, some r => writeOnAcceptance s.queued (completeRunning s channel r)
       | none, none => s
     else s)

/-- MODERATION_EXPIRY (R189). -/
def execModerationExpiry (s : State) : Next :=
  .next (if !s.time.exhausted && s.irq.expired s.mono then s.setIrq s.irq.setReports else s)

/-- MONO_EXHAUSTION (R55): fine units stop, and the port halts with TIMELINE_END unless it is HALTED. -/
def execMonoExhaustion (s : State) : Next :=
  .next
    (if s.mono = Config.monoLast ∧ s.time.exhausted = false then
       halt (s.setTime { s.time with exhausted := true }) .timelineEnd 0
     else s)

/-- Whether an event that the spec ties to the present mono instant has still to be taken: the carry-out of the command
in hand (R167), an occurrence (R35), a phase end (R117), an acceptance (R135), a slew step (R78), a second boundary
(R86), a range end (R88), a wait end (R85), a window close (R57), a moderation expiry (R189), the exhaustion (R55). -/
def State.outstanding (s : State) : Bool :=
  (match s.cmd.state with
    | .holding _ => true
    | _ => false)
  || (s.sched.state == .running && (s.nextTaking s.expiryReach).isSome)
  || s.chans.toList.any (·.phaseDue s.mono)
  || s.caps.toList.any (·.acceptDue s.mono)
  || s.stepDue || s.boundaryDue || s.rangeEndDue || s.waitEndDue || s.time.closeDue || s.irq.expired s.mono
  || decide (Config.monoLast ≤ s.mono)

/-- The start of a fine unit (R53): the trim is added to the residue, which chooses the unit's length. -/
def Timebase.startUnit (t : Timebase) : Timebase :=
  let r := t.residue + t.trim
  if Config.residueLimit ≤ r then { t with residue := r - Config.residueLimit, unitLength := 17 }
  else if r ≤ -Config.residueLimit then { t with residue := r + Config.residueLimit, unitLength := 15 }
  else { t with residue := r, unitLength := 16 }

/-- The end of a fine unit and the start of the next (R53, R54); none starts at the last mono instant (R55). -/
def Timebase.tick (t : Timebase) : Timebase :=
  let t' := { t with mono := t.mono + 1 }
  if t'.mono < Config.monoLast then t'.startUnit else t'

/-- FINE_UNIT (R54). Time does not pass an instant at which a timed event is outstanding (log entry 3). -/
def execFineUnit (s : State) : Next :=
  .next
    (if s.time.exhausted || s.outstanding then s
     else
       ((s.setWall { s.wall with lastSecond := if s.wall.active then wholeSecond s.wallNow else 0 }).setSched
         { s.sched with taken := [] }).setTime s.time.tick)

end Sys2Proof.Machine
end

