-- ==== Sys2Proof/Machine/Dispatch.lean ====
section
/-! DEFINITION. One arm per command: a direct call of its meaning. -/

namespace Sys2Proof.Machine

/-- A command's effect on everything but the queue of commands. -/
def exec (i : Instr) (s : State) : Host.Outcome State Fault Refusal :=
  match i with
  | .nop => Sys2Proof.Machine.execNop s
  | .badOpcode => Sys2Proof.Machine.execBadOpcode s
  | .defineAction => Sys2Proof.Machine.execDefineAction s
  | .descriptorReadEnd ending => Sys2Proof.Machine.execDescriptorReadEnd ending s
  | .arm => Sys2Proof.Machine.execArm s
  | .disarm => Sys2Proof.Machine.execDisarm s
  | .release => Sys2Proof.Machine.execRelease s
  | .queryAction => Sys2Proof.Machine.execQueryAction s
  | .suspend => Sys2Proof.Machine.execSuspend s
  | .resume => Sys2Proof.Machine.execResume s
  | .readTime => Sys2Proof.Machine.execReadTime s
  | .setTime => Sys2Proof.Machine.execSetTime s
  | .stepTime => Sys2Proof.Machine.execStepTime s
  | .adjustTime => Sys2Proof.Machine.execAdjustTime s
  | .snapTime => Sys2Proof.Machine.execSnapTime s
  | .configReference => Sys2Proof.Machine.execConfigReference s
  | .configChannel => Sys2Proof.Machine.execConfigChannel s
  | .flushChannel => Sys2Proof.Machine.execFlushChannel s
  | .channelStatus => Sys2Proof.Machine.execChannelStatus s
  | .configCapture => Sys2Proof.Machine.execConfigCapture s
  | .captureStatus => Sys2Proof.Machine.execCaptureStatus s
  | .fetchStart => Sys2Proof.Machine.execFetchStart s
  | .fetchEnd ending => Sys2Proof.Machine.execFetchEnd ending s
  | .reportWriteStart => Sys2Proof.Machine.execReportWriteStart s
  | .reportWriteEnd busError => Sys2Proof.Machine.execReportWriteEnd busError s
  | .enableWrite1 => Sys2Proof.Machine.execEnableWrite1 s
  | .enableWrite0 => Sys2Proof.Machine.execEnableWrite0 s
  | .softReset enable => Sys2Proof.Machine.execSoftReset enable s
  | .crTailWrite value => Sys2Proof.Machine.execCrTailWrite value s
  | .rrHeadWrite value => Sys2Proof.Machine.execRrHeadWrite value s
  | .intStatusWrite value => Sys2Proof.Machine.execIntStatusWrite value s
  | .intEnableWrite value => Sys2Proof.Machine.execIntEnableWrite value s
  | .intModerationWrite value => Sys2Proof.Machine.execIntModerationWrite value s
  | .registerWrite offset value => Sys2Proof.Machine.execRegisterWrite offset value s
  | .powerOnReset lines => Sys2Proof.Machine.execPowerOnReset lines s
  | .refEdge => Sys2Proof.Machine.execRefEdge s
  | .windowClose => Sys2Proof.Machine.execWindowClose s
  | .transition input => Sys2Proof.Machine.execTransition input s
  | .acceptance input => Sys2Proof.Machine.execAcceptance input s
  | .expiry => Sys2Proof.Machine.execExpiry s
  | .runningSecondBoundary => Sys2Proof.Machine.execRunningSecondBoundary s
  | .slewStep => Sys2Proof.Machine.execSlewStep s
  | .waitEnd => Sys2Proof.Machine.execWaitEnd s
  | .rangeEnd => Sys2Proof.Machine.execRangeEnd s
  | .phaseEnd channel => Sys2Proof.Machine.execPhaseEnd channel s
  | .moderationExpiry => Sys2Proof.Machine.execModerationExpiry s
  | .monoExhaustion => Sys2Proof.Machine.execMonoExhaustion s
  | .fineUnit => Sys2Proof.Machine.execFineUnit s

end Sys2Proof.Machine
end

