-- ==== Sys2Proof/Safety.lean ====
section
/-! DEFINITION. What the statements speak in: the forms of a next state that many rules share (a command answered, an
event report accepted, a halt taken), the layout of report records, and what counts as a sound state of the part, block by
block. The invariants of this file hold after reset, and every command keeps them. -/

namespace Sys2Proof.Machine

/-! ### Forms of a next state -/

/-- The command unit holds a command with this opcode and has not carried it out (R165, R195). -/
abbrev State.holds (s : State) (c : InHand) (opcode : Byte) : Prop := s.cmd.state = .holding c ∧ byteAt c.record 0 = opcode

/-- The completion of a command in hand: the common fields of R169. -/
def InHand.answer (c : InHand) (status : Status) (fieldNo : Option Nat) (results : Results) : Report :=
  .completion
    { tag := le16 c.record 2, opcode := byteAt c.record 0, ringIndex := c.index, status := status, fieldNo := fieldNo,
      results := results }

/-- `t` with the fetch of the next command started where every condition of R160 holds: one entry reserved, and the read of
the record at CR_HEAD issued. -/
def State.fetchStarted (t : State) : State :=
  if t.port.state = .running ∧ t.port.crHead ≠ t.port.crTail ∧ t.cmd.state = .idle ∧ t.port.fetch = none ∧
      t.reports.records.length + t.reports.reservations < 32 then
    { t with
      port := { t.port with fetch := some (t.port.crBase + BitVec.ofNat 32 (32 * t.port.crHead)) }
      reports := { t.reports with reservations := t.reports.reservations + 1 } }
  else t

/-- `t`, what an event has made of `s`, with the write of its front record started where the event has accepted a record into
an empty queue and the other conditions of R184 hold. -/
def State.writeStarted (s t : State) : State :=
  match s.reports.records, t.reports.records with
  | [], front :: _ =>
    if (t.port.state = .running ∨ t.port.state = .draining) ∧ t.reports.write = none ∧
        (t.port.rrTail + 1) % t.port.rrSize.toNat ≠ t.port.rrHead then
      { t with reports := { t.reports with write := some ⟨t.port.rrBase + BitVec.ofNat 32 (32 * t.port.rrTail),
          t.port.rrTail, t.port.phase, front.bytes t.port.phase⟩ } }
    else t
  | _, _ => t

/-- `t`, what a carry-out or the end of a descriptor read has made of `s`, with the starts that conclude that event: the
write of a record accepted into an empty queue (R184) and the fetch that waited for the command unit (R160). -/
def State.concluded (s t : State) : State := (s.writeStarted t).fetchStarted

/-- `s` after the completion of the command in hand has been accepted at the end of the report queue, into its reserved
entry, and the command unit has become IDLE, with the starts that conclude the event; nothing else is changed (R160, R167,
R181, R184). -/
def State.answered (s : State) (c : InHand) (status : Status) (fieldNo : Option Nat) (results : Results) : State :=
  s.concluded
    { s with
      cmd := { s.cmd with state := .idle }
      reports := { s.reports with records := s.reports.records ++ [c.answer status fieldNo results],
                                  reservations := s.reports.reservations - 1 } }

/-- The records `added` stand behind those of `s`, in an order that is left open, and one reservation is given back for
each of `answers` completions among them (R180, R181). -/
def State.gains (s t : State) (added : List Report) (answers : Nat) : Prop :=
  (∃ order : List Report, order.Perm added ∧ t.reports.records = s.reports.records ++ order) ∧
    t.reports.reservations = s.reports.reservations - answers

/-- `s` with one slot given anew. -/
def State.withSlot (s : State) (i : SlotId) (x : Slot) : State := { s with slots := s.slots.set i.val x }

/-- `s` with one channel given anew. -/
def State.withChan (s : State) (ch : Fin 8) (c : Channel) : State := { s with chans := s.chans.set ch.val c }

/-- `s` with one capture input given anew. -/
def State.withCap (s : State) (input : Fin 4) (k : Capture) : State := { s with caps := s.caps.set input.val k }

/-- A slot's contents at the beginning of a run, with its run-time fields at their starting values (R14). -/
def Action.begun (a : Action) (state : SlotState) (due : Option Due) : Held :=
  { action := a, state := state, nextDue := due, remaining := if a.count = 0 then .unlimited else .limited a.count,
    fired := 0, lastFired := none }

/-- A list with an entry joined behind every leading entry whose due is equal or earlier (R27). -/
def State.joined (s : State) (i : SlotId) (due : Nat) (l : List SlotId) : List SlotId :=
  l.takeWhile (fun j => decide (s.dueOf j ≤ due)) ++ i :: l.dropWhile (fun j => decide (s.dueOf j ≤ due))

/-- What a DISARM that withdraws leaves alone: the other slots, the inputs, the clocks, the port, the waiting queue of
commands, the scheduler's state, and every place of the collections but the slot's own (R16). The interrupt unit may have
LOSS set by a DONE report that finds no room. -/
def State.sameOutsideSlotAndChannels (s t : State) (i : SlotId) : Prop :=
  (∀ j, j ≠ i → t.slot j = s.slot j) ∧ t.caps = s.caps ∧ t.time = s.time ∧ t.wall = s.wall ∧ t.port = s.port ∧
    t.pending = s.pending ∧ t.reports.write = s.reports.write ∧
    t.sched = { s.sched with monoDue := s.sched.monoDue.filter (· ≠ i), wallDue := s.sched.wallDue.filter (· ≠ i),
                             patterns := s.sched.patterns.filter (· ≠ i),
                             waits := s.sched.waits.map (List.filter (· ≠ i)),
                             found := s.sched.found.filter (·.slot ≠ i) } ∧
    t.irq.enable = s.irq.enable ∧ t.irq.threshold = s.irq.threshold ∧ t.irq.time = s.irq.time ∧
    t.irq.count = s.irq.count ∧ t.irq.start = s.irq.start ∧ t.irq.status.reports = s.irq.status.reports ∧
    t.irq.status.fault = s.irq.status.fault

/-- Event reports have been offered and nothing else is changed but one channel, the report queue and the command unit:
of the interrupt unit only LOSS may have been set (R182, R187). -/
def State.keepsAllBut (s t : State) (ch : Fin 8) : Prop :=
  (∀ k, k ≠ ch → t.chan k = s.chan k) ∧ t.slots = s.slots ∧ t.sched = s.sched ∧ t.caps = s.caps ∧ t.time = s.time ∧
    t.wall = s.wall ∧ t.port = s.port ∧ t.pending = s.pending ∧ t.reports.write = s.reports.write ∧
    (t.irq = s.irq ∨ t.irq = { s.irq with status := { s.irq.status with loss := true } })

/-- The wall offset with the slew step of this mono instant, if one has still to be taken, and the wall instant it gives: the
order of the instant's occurrences is judged by them (R50, R78, log entry 8). -/
def State.offsetThen (s : State) : Int :=
  match s.wall.slew with
  | some w => if s.stepDue then s.wall.offset + w.remainder.sign else s.wall.offset
  | none => s.wall.offset

def State.wallThen (s : State) : Nat := ((s.time.mono : Int) + s.offsetThen).toNat

/-- Every entry of either due list that was due, with mono time where it stands and wall time at `new`, has had its
occurrence by `t`, and none is left due that has not (R35, R47). -/
def State.tookWhatIsDue (s t : State) (new : Nat) : Prop :=
  (∀ i ∈ s.sched.monoDue, s.dueOf i ≤ s.time.mono → i ∈ t.sched.taken) ∧
    (∀ i ∈ s.sched.wallDue, s.dueOf i ≤ new → i ∈ t.sched.taken) ∧
    (∀ i ∈ t.sched.monoDue, t.dueOf i ≤ s.time.mono → i ∈ t.sched.taken) ∧
    ∀ i ∈ t.sched.wallDue, t.dueOf i ≤ new → i ∈ t.sched.taken

/-- Every member of the pattern set that matches a wall second, and has had no occurrence at this instant, has been taken for
that second by `t`, unless its slot has become FREE (R98, R102, R103). -/
def State.tookMatches (s t : State) (second : Nat) : Prop :=
  ∀ i ∈ s.sched.patterns, i ∉ s.sched.taken → ∀ h, (s.slot i).held = some h → h.matches second = true →
    (t.slot i).held = none ∨ ∃ h', (t.slot i).held = some h' ∧ h'.lastFired = some second

/-- `next` is the channel once its running instance has completed at `now`: the front of the waiting queue has started, or
the channel is IDLE (R115, R116, R118). -/
def Channel.succeededBy (c : Channel) (now : Nat) (next : Channel) : Prop :=
  (c.queue = [] → next = { c with state := .idle, running := none }) ∧
    ∀ i rest, c.queue = i :: rest →
      (∀ p sp n, i.operation = some (.train p sp n) → next =
        { c with state := .pulse, queue := rest,
                 running := some { inst := i, start := now, pulses := 1, phaseEnd := now + p } }) ∧
      (∀ level, (i.operation = some .setHigh ∧ level = .high ∨ i.operation = some .setLow ∧ level = .low ∨
          i.operation = some .toggle ∧ level = c.level.flip) → next =
        { c with state := .space, level := level, queue := rest,
                 running := some { inst := i, start := now, pulses := 0, phaseEnd := now } })

/-- The EXPIRY taken in `s` fires or skips the occurrence `o` of an action, `late` fine units late, its slot having been
moved on as in `moved` (R37, R42 to R45). A skip and a firing are reported when the fire reports are on. A firing goes to its
channel by the busy policy, whose DONE reports precede its FIRE report (R114); without a channel it is NO_CHANNEL and
completed at once behind its FIRE report, with its follow-on request (R20) and its DONE report. The event starts the write of
a record accepted into an empty queue (R184). -/
def State.expiryTakes (s moved : State) (a : Action) (o : Occurrence) (late : Nat) : Prop :=
  let fires := late ≤ a.lateLimit ∨ a.latePolicy = .fireLate
  let reported (u : State) (r : Report) : State := if a.fireReports then offer u r else u
  let answers (t : State) : Prop := exec .expiry s = .next (s.writeStarted t)
  (¬ fires → answers (reported moved (.skip o))) ∧
  (∀ out, fires → a.output = some out →
    let arrival := (s.chan out.channel).arrive out.channel s.time.mono
      { handle := o.handle, tag := a.tag, output := some out, busy := a.busy, fireReports := a.fireReports,
        doneReports := a.doneReports, followOn := a.followOn, fireInstant := s.time.mono,
        lateness := min (2 ^ 32 - 1) late }
    answers (reported ((arrival.dones.map Report.done).foldl offer (moved.withChan out.channel arrival.channel))
      (.fire o (decide (a.lateLimit < late)) arrival.outcome))) ∧
  (fires → a.output = none →
    let told := reported moved (.fire o (decide (a.lateLimit < late)) .noChannel)
    let completed (u : State) (outcome : FollowOutcome) : State :=
      if a.doneReports = true ∨ outcome = .stale ∨ outcome = .notIdle ∨ outcome = .notAfter then
        offer u (.done { handle := o.handle, tag := a.tag, channel := none, reason := .completed,
                         start := some s.time.mono, ending := s.time.mono, pulses := 0, followOn := outcome })
      else u
    (a.followOn = none → answers (completed told .none)) ∧
    ∀ target, a.followOn = some target →
      (((moved.slot target.slot).held = none ∨ (moved.slot target.slot).gen ≠ target.gen) →
        answers (completed told .stale)) ∧
      ∀ g, (moved.slot target.slot).held = some g → (moved.slot target.slot).gen = target.gen →
        (g.state ≠ .idle → answers (completed told .notIdle)) ∧
        (g.state = .idle → (∀ delay, g.action.trigger ≠ .after delay) → answers (completed told .notAfter)) ∧
        (∀ delay, g.state = .idle → g.action.trigger = .after delay →
          answers (completed
            ({ told with sched := { told.sched with
                  monoDue := moved.joined target.slot (s.time.mono + delay) told.sched.monoDue } }.withSlot target.slot
              ⟨target.gen, some (g.action.begun .pending (some ⟨.mono, s.time.mono + delay⟩))⟩) .armed)))

/-- The halt with a fault code and address, block by block (R156, R157, R33, R91, R131, R177, R186, R187). The slots,
the timebase but for its exhaustion, the inputs and the lost count are kept. -/
def State.haltedAs (s t : State) (code : FaultCode) (address : Word) : Prop :=
  t.port = { s.port with state := .halted, faultCode := code, faultAddr := address, fetch := none } ∧
  t.cmd = { state := .idle, adjust := none, snap := none } ∧
  t.reports = { s.reports with records := [], reservations := 0, write := none } ∧
  t.irq = { s.irq with status := { s.irq.status with fault := true } } ∧
  t.slots = s.slots ∧
  t.sched = { s.sched with state := .halted } ∧
  t.wall = { s.wall with state := if s.wall.state = .slewing then .running else s.wall.state, slew := none, snap := none } ∧
  (∀ ch, (s.chan ch).state = .disabled → t.chan ch = s.chan ch) ∧
  (∀ ch, (s.chan ch).state ≠ .disabled →
    t.chan ch = { state := .disabled, level := (s.chan ch).parked, parked := (s.chan ch).parked, running := none,
                  queue := [] }) ∧
  t.caps = s.caps ∧ t.pending = s.pending

/-! ### The layout of report records -/

/-- A handle in two bytes, the slot in the lower one (11.1). -/
def Handle.layout (h : Handle) : BitVec 16 := BitVec.ofNat 8 h.gen.val ++ BitVec.ofNat 8 h.slot.val

/-- An instant or wall value, every bit set when it is absent (11.1). -/
def layoutInstant (x : Option Nat) : BitVec 64 := (x.map (BitVec.ofNat 64)).getD (BitVec.allOnes 64)

/-! The codes of table 11.1: each enumeration's values in the order of their codes. -/

def SlotState.layout (x : SlotState) : Nat := [SlotState.free, .idle, .pending, .watching, .waiting].idxOf x
def DiscState.layout (x : DiscState) : Nat := [DiscState.off, .acquire, .locked, .holdover].idxOf x
def WallState.layout (x : WallState) : Nat := [WallState.unset, .running, .slewing].idxOf x
def ChanState.layout (x : ChanState) : Nat := [ChanState.disabled, .idle, .pulse, .space].idxOf x
def Admission.layout (x : Admission) : Nat := [Admission.started, .queued, .dropped, .channelOff, .noChannel].idxOf x
def EndReason.layout (x : EndReason) : Nat := [EndReason.completed, .aborted, .discarded, .withdrawn].idxOf x
def FollowOutcome.layout (x : FollowOutcome) : Nat := [FollowOutcome.none, .armed, .stale, .notIdle, .notAfter].idxOf x
def Status.layout (x : Status) : Nat :=
  [Status.ok, .badOpcode, .badField, .badHandle, .wrongState, .tableFull, .busy, .wallUnset, .noReference,
   .descriptorFault, .superseded, .cancelled, .timeout].idxOf x

/-- Whether a due is on the wall clock, and whether a remaining count is unlimited, as the bit that says so. -/
def Due.layout (d : Due) : BitVec 1 := BitVec.ofBool (decide (d.clock = .wall))
def Remaining.layout : Remaining → BitVec 1 × BitVec 16
  | .unlimited => (1, 0)
  | .limited n => (0, BitVec.ofNat 16 n)

/-- A level as a bit. -/
def layoutLevel (l : Level) : BitVec 1 := BitVec.ofBool (decide (l = .high))

/-- A last edge: its polarity bit, clear when it is absent, and its instant. -/
def layoutEdge (e : Option LastEdge) : BitVec 1 × BitVec 64 :=
  (BitVec.ofBool (e.any fun x => decide (x.polarity = .falling)), layoutInstant (e.map LastEdge.instant))

/-- Bytes 8 to 31 of a completion, from byte 31 down (table 11.6); a field that has no row there is 0. -/
def Results.layout : Results → BitVec 192
  | .none => 0
  | .defined h | .handleOnly h => (0 : BitVec 176) ++ h.layout
  | .stateFound h st => (0 : BitVec 168) ++ BitVec.ofNat 8 st.layout ++ h.layout
  | .armed h st due =>
    (0 : BitVec 64) ++ layoutInstant (due.map Due.instant) ++ (0 : BitVec 39) ++ (due.map Due.layout).getD 0
      ++ BitVec.ofNat 8 st.layout ++ h.layout
  | .disarmed h st waiting running =>
    (0 : BitVec 152) ++ BitVec.ofNat 8 running ++ BitVec.ofNat 8 waiting ++ BitVec.ofNat 8 st.layout ++ h.layout
  | .queried q =>
    BitVec.ofNat 32 q.fired ++ (q.lastFired.map (BitVec.ofNat 32)).getD (BitVec.allOnes 32)
      ++ layoutInstant (q.nextDue.map Due.instant) ++ (0 : BitVec 16) ++ q.remaining.layout.2 ++ q.remaining.layout.1
      ++ (q.nextDue.map Due.layout).getD 0 ++ BitVec.ofBool q.counts.isNone ++ BitVec.ofBool (q.counts.any Prod.snd)
      ++ BitVec.ofNat 4 ((q.counts.map Prod.fst).getD 0) ++ BitVec.ofNat 8 q.state.layout ++ q.handle.layout
  | .time t =>
    let c := calendarOfSecond (t.wall.getD 0 / 2 ^ 20)
    let calendar : BitVec 56 := BitVec.ofNat 16 c.year ++ BitVec.ofNat 8 c.second ++ BitVec.ofNat 8 c.minute
      ++ BitVec.ofNat 8 c.hour ++ BitVec.ofNat 8 c.day ++ BitVec.ofNat 8 c.month
    layoutInstant t.wall ++ BitVec.ofNat 64 t.mono ++ (if t.wall.isSome then calendar else BitVec.allOnes 56)
      ++ BitVec.ofNat 4 (if t.wall.isSome then c.weekday else 0) ++ BitVec.ofNat 2 t.disc.layout
      ++ BitVec.ofNat 2 t.state.layout
  | .wallChanged wall change =>
    BitVec.ofInt 64 (change.getD 0) ++ BitVec.ofNat 64 wall ++ (0 : BitVec 63) ++ BitVec.ofBool change.isNone
  | .noChange => (0 : BitVec 191) ++ (1 : BitVec 1)
  | .applied amount => BitVec.ofInt 64 amount ++ (0 : BitVec 128)
  | .reference found set trim =>
    (0 : BitVec 128) ++ BitVec.ofInt 32 trim ++ (0 : BitVec 16) ++ BitVec.ofNat 8 set.layout ++ BitVec.ofNat 8 found.layout
  | .channelSet found aborted discarded level line =>
    (0 : BitVec 166) ++ layoutLevel line ++ layoutLevel level ++ BitVec.ofNat 8 discarded ++ BitVec.ofNat 8 aborted
      ++ BitVec.ofNat 8 found.layout
  | .channelFlushed aborted discarded =>
    (0 : BitVec 168) ++ BitVec.ofNat 8 discarded ++ BitVec.ofNat 8 aborted ++ (0 : BitVec 8)
  | .channelRead c =>
    let waiting (k : Nat) : BitVec 16 := (c.waiting[k]?.map Handle.layout).getD 0
    (0 : BitVec 16) ++ waiting 7 ++ waiting 6 ++ waiting 5 ++ waiting 4 ++ waiting 3 ++ waiting 2 ++ waiting 1 ++ waiting 0
      ++ (c.running.map Handle.layout).getD 0 ++ (0 : BitVec 8) ++ BitVec.ofNat 8 c.waiting.length
      ++ BitVec.ofNat 8 c.state.layout ++ (0 : BitVec 3) ++ BitVec.ofBool c.running.isSome ++ layoutLevel c.line
      ++ layoutLevel c.parked ++ layoutLevel c.level ++ BitVec.ofBool c.enabled
  | .captureSet on line count last =>
    (0 : BitVec 64) ++ (layoutEdge last).2 ++ BitVec.ofNat 32 count ++ (0 : BitVec 22) ++ (layoutEdge last).1
      ++ layoutLevel line ++ (0 : BitVec 7) ++ BitVec.ofBool on
  | .captureRead line count last waiting =>
    (0 : BitVec 64) ++ (layoutEdge last).2 ++ BitVec.ofNat 32 count ++ BitVec.ofNat 16 waiting ++ (0 : BitVec 6)
      ++ (layoutEdge last).1 ++ layoutLevel line ++ (0 : BitVec 8)

/-- Bytes 2 to 31 of FIRE and SKIP, from byte 31 down (table 11.5). -/
def Occurrence.layout (o : Occurrence) : BitVec 240 :=
  o.remaining.layout.2 ++ BitVec.ofNat 16 o.missed ++ BitVec.ofNat 32 o.lateness ++ BitVec.ofNat 64 o.instant
    ++ BitVec.ofNat 64 o.due.instant ++ o.tag ++ o.handle.layout

/-- The 32 bytes of a report record, from byte 31 down (R197, table 11.5): the kind stands in byte 0, the phase in bit 0 of
byte 1, and what a kind does not name is 0. -/
def Report.layout (r : Report) (phase : Bool) : Record :=
  let phase := BitVec.ofBool phase
  match r with
  | .completion c =>
    c.results.layout ++ BitVec.ofNat 4 (c.fieldNo.getD 0) ++ BitVec.ofNat 12 c.ringIndex ++ c.tag
      ++ BitVec.ofNat 8 c.status.layout ++ c.opcode ++ (0 : BitVec 7) ++ phase ++ (1 : Byte)
  | .fire o late admission =>
    o.layout ++ BitVec.ofNat 3 admission.layout ++ o.remaining.layout.1 ++ o.due.layout ++ BitVec.ofBool o.last
      ++ BitVec.ofBool late ++ phase ++ (2 : Byte)
  | .skip o =>
    o.layout ++ (0 : BitVec 3) ++ o.remaining.layout.1 ++ o.due.layout ++ BitVec.ofBool o.last ++ (0 : BitVec 1) ++ phase
      ++ (3 : Byte)
  | .done d =>
    (0 : BitVec 40) ++ BitVec.ofNat 8 ((d.channel.map Fin.val).getD 255) ++ BitVec.ofNat 16 d.pulses
      ++ BitVec.ofNat 64 d.ending ++ layoutInstant d.start ++ d.tag ++ d.handle.layout ++ (0 : BitVec 1)
      ++ BitVec.ofNat 3 d.followOn.layout ++ (0 : BitVec 1) ++ BitVec.ofNat 2 d.reason.layout ++ phase ++ (4 : Byte)
  | .capture c =>
    (0 : BitVec 64) ++ layoutInstant c.wall ++ BitVec.ofNat 64 c.instant ++ BitVec.ofNat 32 c.number ++ (0 : BitVec 8)
      ++ BitVec.ofNat 8 c.input.val ++ (0 : BitVec 6) ++ BitVec.ofBool (decide (c.polarity = .falling)) ++ phase
      ++ (5 : Byte)
  | .reference x =>
    (0 : BitVec 64) ++ BitVec.ofNat 64 x.instant ++ (0 : BitVec 32) ++ BitVec.ofInt 32 x.lastError
      ++ BitVec.ofInt 32 x.trim ++ BitVec.ofNat 8 x.new.layout ++ BitVec.ofNat 8 x.old.layout ++ (0 : BitVec 7) ++ phase
      ++ (6 : Byte)
  | .wallLost moved final instant =>
    (0 : BitVec 64) ++ BitVec.ofNat 64 instant ++ BitVec.ofNat 64 final ++ (0 : BitVec 32) ++ BitVec.ofNat 16 moved
      ++ (0 : BitVec 7) ++ phase ++ (7 : Byte)
  | .overflow lost instant =>
    (0 : BitVec 64) ++ BitVec.ofNat 64 instant ++ (0 : BitVec 96) ++ BitVec.ofNat 16 lost ++ (0 : BitVec 7) ++ phase
      ++ (8 : Byte)

/-! ### Sound states -/

/-- How many report entries are owed to commands: one to a fetch in flight, one to a command in hand, one to each
deferred command (R173, R181). -/
def State.owed (s : State) : Nat :=
  (if s.port.fetch.isSome then 1 else 0) +
    (match s.cmd.state with
      | .idle => 0
      | .holding _ | .reading _ => 1) +
    (if s.cmd.adjust.isSome then 1 else 0) + (if s.cmd.snap.isSome then 1 else 0)

/-- The port is RUNNING or DRAINING. -/
abbrev PortState.serving (p : PortState) : Prop := p = .running ∨ p = .draining

/-- The report queue and what it owes (R155, R160, R165, R173, R180, R181, R184): at most 32 records and reservations
together, each reservation owed to a command, the deferred slots present exactly while the wall clock's records are, no fetch
beside a command in hand, nothing queued or owed outside RUNNING and DRAINING, and no fetch or report write that could start
left unstarted. -/
structure State.QueueSound (s : State) : Prop where
  room : s.reports.records.length + s.reports.reservations ≤ 32
  owed : s.reports.reservations = s.owed
  adjust : s.cmd.adjust.isSome = s.wall.slew.isSome
  snap : s.cmd.snap.isSome = s.wall.snap.isSome
  alone : s.port.fetch.isSome = true → s.cmd.state = .idle
  resting : ¬ s.port.state.serving → s.reports.records = [] ∧ s.reports.reservations = 0
  fetching : s.port.state = .running → s.port.crHead ≠ s.port.crTail → s.cmd.state = .idle → s.port.fetch = none →
    s.reports.records.length + s.reports.reservations = 32
  writing : s.reports.records ≠ [] → s.reports.write = none →
    (s.port.rrTail + 1) % s.port.rrSize.toNat = s.port.rrHead

/-- A channel record that R107 and R109 allow. -/
structure Channel.Sound (c : Channel) : Prop where
  resting : c.running = none ↔ c.state = .disabled ∨ c.state = .idle
  alone : c.running = none → c.queue = []
  room : c.queue.length ≤ 8
  pulsing : c.state = .pulse → ∃ r p sp n, c.running = some r ∧ r.inst.operation = some (.train p sp n)

/-- The discipline record in the ranges of table 3.1, with the counts below the limits that would change the state. -/
structure Discipline.Sound (d : Discipline) : Prop where
  window : 16 ≤ d.window ∧ d.window ≤ 65535
  lockCount : 1 ≤ d.lockCount ∧ d.lockCount ≤ 15
  missLimit : 1 ≤ d.missLimit ∧ d.missLimit ≤ 15
  good : d.good ≤ 15
  seeking : d.state = .acquire ∨ d.state = .holdover → d.good < d.lockCount
  miss : d.miss ≤ d.missLimit
  locked : d.state = .locked → d.miss < d.missLimit ∧ d.expect.isSome = true
  lastError : -65535 ≤ d.lastError ∧ d.lastError ≤ 65535
  off : d.state = .off → d.expect = none

/-- The timebase in the ranges that R53 to R56 give. -/
structure Timebase.Sound (t : Timebase) : Prop where
  mono : t.mono ≤ 2 ^ 52 - 1
  exhausted : t.exhausted = true → t.mono = 2 ^ 52 - 1
  trim : -262144 ≤ t.trim ∧ t.trim ≤ 262144
  residue : -2 ^ 26 < t.residue ∧ t.residue < 2 ^ 26
  unitLength : t.unitLength = 15 ∨ t.unitLength = 16 ∨ t.unitLength = 17
  disc : t.disc.Sound

/-- A capture input's filter while its mode is ON (R135): without a candidate the line is at the filtered level, and a
candidate's new level is the line's, away from the filtered one. While the mode is OFF there is no candidate. -/
structure Capture.Sound (k : Capture) : Prop where
  off : k.on = false → k.candidate = none
  settled : k.on = true → k.candidate = none → k.line = k.filtered
  candidate : ∀ x, k.candidate = some x → x.level = k.line ∧ k.line = k.filtered.flip

/-- The rings while the port is RUNNING or DRAINING (R152, R158, R159, R184): they are as R152 validates them, every
index lies within its ring, and a write in flight goes to an entry behind which one more is free. -/
structure Port.RingsSound (p : Port) (writing : Bool) : Prop where
  crBase : p.crBase.toNat % 64 = 0
  rrBase : p.rrBase.toNat % 64 = 0
  crSize : (∃ k, 4 ≤ k ∧ k ≤ 12 ∧ p.crSize.toNat = 2 ^ k) ∧ p.crBase.toNat + 32 * p.crSize.toNat ≤ 2 ^ 32
  rrSize : (∃ k, 4 ≤ k ∧ k ≤ 12 ∧ p.rrSize.toNat = 2 ^ k) ∧ p.rrBase.toNat + 32 * p.rrSize.toNat ≤ 2 ^ 32
  crHead : p.crHead < p.crSize.toNat
  crTail : p.crTail < p.crSize.toNat
  rrHead : p.rrHead < p.rrSize.toNat
  rrTail : p.rrTail < p.rrSize.toNat
  room : writing = true → (p.rrTail + 1) % p.rrSize.toNat ≠ p.rrHead

/-- What a slot stands in, by its state (R2, R26, R94, R139): a PENDING slot in the due list of its due's clock, a
WATCHING one in the pattern set, a WAITING one in the set of the input its trigger names, and each at most once; each
due list is ordered by due. While the wall is UNSET nothing is wall-bound (R29). A pattern occurrence found and not yet taken
is of a member that has had none taken at this instant, one for each (R98, R105). -/
structure State.CollectionsSound (s : State) : Prop where
  mono : ∀ i, i ∈ s.sched.monoDue ↔
    ∃ h n, (s.slot i).held = some h ∧ h.state = .pending ∧ h.nextDue = some { clock := .mono, instant := n }
  wall : ∀ i, i ∈ s.sched.wallDue ↔
    ∃ h n, (s.slot i).held = some h ∧ h.state = .pending ∧ h.nextDue = some { clock := .wall, instant := n }
  patterns : ∀ i, i ∈ s.sched.patterns ↔ ∃ h, (s.slot i).held = some h ∧ h.state = .watching
  waits : ∀ (k : Fin 4) i, i ∈ s.sched.waits[k.val] ↔
    ∃ h delay rearm, (s.slot i).held = some h ∧ h.state = .waiting ∧ h.action.trigger = .onCapture k delay rearm
  held : ∀ i h, (s.slot i).held = some h → h.state ≠ .free ∧ (h.state = .pending ↔ h.nextDue.isSome = true)
  watching : ∀ i h, (s.slot i).held = some h → h.state = .watching → h.action.trigger.isPattern = true
  waiting : ∀ i h, (s.slot i).held = some h → h.state = .waiting →
    ∃ k delay rearm, h.action.trigger = .onCapture k delay rearm
  wallBound : ∀ i h n, (s.slot i).held = some h → h.nextDue = some { clock := .wall, instant := n } →
    ∃ due, h.action.trigger = .atWall due
  monoBound : ∀ i h n, (s.slot i).held = some h → h.nextDue = some { clock := .mono, instant := n } →
    h.action.trigger.wallBound = false
  once : s.sched.monoDue.Nodup ∧ s.sched.wallDue.Nodup ∧ s.sched.patterns.Nodup ∧ ∀ k : Fin 4, s.sched.waits[k.val].Nodup
  ordered : s.sched.monoDue.Pairwise (fun i j => s.dueOf i ≤ s.dueOf j) ∧
    s.sched.wallDue.Pairwise (fun i j => s.dueOf i ≤ s.dueOf j)
  unset : s.wall.state = .unset → s.sched.wallDue = [] ∧ s.sched.patterns = []
  found : ∀ m ∈ s.sched.found, m.slot ∈ s.sched.patterns ∧ m.slot ∉ s.sched.taken
  foundOnce : (s.sched.found.map Match.slot).Nodup

/-- Nothing in either due list is due at this mono instant (R35), and no pattern occurrence waits to be taken. -/
abbrev State.nothingDue (s : State) : Prop :=
  s.sched.found = [] ∧ (∀ i ∈ s.sched.monoDue, s.time.mono < s.dueOf i) ∧
    (s.wall.state = .unset ∨ ∀ i ∈ s.sched.wallDue, s.wallReach ≤ s.dueOf i)

/-- As many EXPIRY steps as the first argument says, one after the other (R35). -/
def afterExpiries : Nat → State → State
  | 0, s => s
  | n + 1, s =>
    match exec .expiry s with
    | .next t => afterExpiries n t
    | _ => s

end Sys2Proof.Machine
end

