-- ==== Sys2Proof/Certificates/Slice0/Obligations.lean ====
section
/-! DEFINITION. The statements about the TS-612 model, each a proposition for the provers. Bytes and opcodes are those of
chapter 11; a rule number in a docstring names the rule of spec/ that the statement formalises. -/

open Sys2Proof Sys2Proof.Machine

/-! ### The queue of commands, reset, and whole-machine rules -/

/-- A step takes the command at the front of the queue and carries it out with the queue's rest. The queue is the
model's own (log entry 1). -/
def Obligations.StepRunsTheFrontCommand : Prop :=
  ∀ (c : Instr) (rest : List Instr) (s : State), s.pending = c :: rest → step s = exec c { s with pending := rest }

/-- Every invariant of Safety.lean holds after reset. -/
def Obligations.InvariantsHoldAtReset : Prop :=
  State.reset.QueueSound ∧ State.reset.time.Sound ∧ State.reset.CollectionsSound ∧
    (∀ ch, (State.reset.chan ch).Sound) ∧ (∀ k, (State.reset.cap k).Sound) ∧ ¬ State.reset.port.state.serving

/-- A power-on reset gives every block its values of reset, with the capture lines as sampled at its end, which is mono
instant 0 (R23, R52, R67,
R93, R133, R147, R164, R178, R186, R191), so that every register reads 0 but for DEV_ID, DEV_REV and RR_TAIL (note to
table 11.2). -/
def Obligations.PowerOnResetGivesInitialValues : Prop :=
  ∀ (lines : Vector Level 4) (s : State), ∃ t, exec (.powerOnReset lines) s = .next t ∧
    (∀ i, t.slot i = { gen := 0, held := none }) ∧
    t.sched.state = .running ∧ t.sched.monoDue = [] ∧ t.sched.wallDue = [] ∧ t.sched.patterns = [] ∧
    (∀ k : Fin 4, t.sched.waits[k.val] = []) ∧ t.sched.found = [] ∧
    t.time.mono = 0 ∧ t.time.exhausted = false ∧ t.time.trim = 0 ∧ t.time.residue = 0 ∧
    t.time.disc = { state := .off, window := 1024, lockCount := 4, missLimit := 3, expect := none, good := 0, miss := 0,
                    lastError := 0, holdoverAt := none } ∧
    t.wall.state = .unset ∧ t.wall.offset = 0 ∧ t.wall.slew = none ∧ t.wall.snap = none ∧
    (∀ ch, t.chan ch = { state := .disabled, level := .low, parked := .low, running := none, queue := [] }) ∧
    (∀ k : Fin 4, t.cap k = { on := false, select := .rising, filter := 0, report := false, line := lines[k.val],
                              filtered := lines[k.val], candidate := none, count := 0, last := none, movedAt := some 0 }) ∧
    t.cmd = { state := .idle, adjust := none, snap := none } ∧
    t.reports = { records := [], reservations := 0, lost := 0, write := none } ∧
    t.irq = { status := ⟨false, false, false⟩, enable := ⟨false, false, false⟩, threshold := 0, time := 0, count := 0,
              start := none } ∧
    t.port = { state := .disabled, crBase := 0, crSize := 0, crTail := 0, crHead := 0, rrBase := 0, rrSize := 0,
               rrHead := 0, rrTail := 0, phase := true, configError := .none, faultCode := .none, faultAddr := 0,
               fetch := none } ∧
    ∀ r, readRegister t r =
      match r with
      | .devId => 0x0D480612
      | .devRev => 1
      | .rrTail => 0x80000000
      | _ => 0

/-- Mono time is set to 0 by a power-on reset alone, rises by one at a fine unit, and is left alone by every other
command (R54). No command touches the queue of the commands that wait, which is the model's own (log entry 1). -/
def Obligations.MonoRisesByFineUnitsAlone : Prop :=
  ∀ (c : Instr) (s t : State), exec c s = .next t →
    t.pending = s.pending ∧
    (t.time.mono = s.time.mono ∨ (c = .fineUnit ∧ t.time.mono = s.time.mono + 1) ∨
      (∃ lines, c = .powerOnReset lines ∧ t.time.mono = 0))

/-- Outside a power-on reset, a slot's generation changes exactly when the slot becomes FREE, and then by one, mod 256
(R3). -/
def Obligations.GenerationChangesWhenTheSlotIsFreed : Prop :=
  ∀ (c : Instr) (s t : State) (i : SlotId), (∀ lines, c ≠ .powerOnReset lines) → exec c s = .next t →
    ((t.slot i).gen ≠ (s.slot i).gen ↔ (s.slot i).held.isSome = true ∧ (t.slot i).held = none) ∧
    ((t.slot i).gen ≠ (s.slot i).gen → (t.slot i).gen.val = ((s.slot i).gen.val + 1) % 256)

/-- A HALTED port stays HALTED with its fault code and address, until a soft reset or a power-on reset (R156, R157). -/
def Obligations.OnlyAResetLeavesHalted : Prop :=
  ∀ (c : Instr) (s t : State), s.port.state = .halted → exec c s = .next t →
    (∀ lines, c ≠ .powerOnReset lines) → (∀ enable, c ≠ .softReset enable) →
    (∀ v : Word, v.getLsbD 1 = true → c ≠ .registerWrite 0x08 v) →
    t.port.state = .halted ∧ t.port.faultCode = s.port.faultCode ∧ t.port.faultAddr = s.port.faultAddr

/-! ### Invariants that every command keeps -/

/-- The report queue never overfills, its reservations are exactly those owed to commands, it is empty outside RUNNING and
DRAINING, and no fetch and no report write that could start is left unstarted (R155, R160, R173, R180, R181, R184). -/
def Obligations.ReportQueueNeverOverfills : Prop :=
  ∀ (c : Instr) (s t : State), s.QueueSound → exec c s = .next t → t.QueueSound

/-- The timebase and the discipline stay in their ranges (R53 to R61, table 3.1). -/
def Obligations.TimebaseStaysInRange : Prop :=
  ∀ (c : Instr) (s t : State), s.time.Sound → exec c s = .next t → t.time.Sound

/-- Every channel keeps to R107 and R109. -/
def Obligations.ChannelsStayCoherent : Prop :=
  ∀ (c : Instr) (s t : State), (∀ ch, (s.chan ch).Sound) → exec c s = .next t → ∀ ch, (t.chan ch).Sound

/-- Every capture input keeps to its filter's rule: a transition with a candidate present is a return (R135). -/
def Obligations.CaptureFiltersStayCoherent : Prop :=
  ∀ (c : Instr) (s t : State), (∀ k, (s.cap k).Sound) → exec c s = .next t → ∀ k, (t.cap k).Sound

/-- Every slot stands in exactly the collection its state names, the due lists stay ordered, and nothing is wall-bound while
the wall is UNSET (R2, R26, R29, R94, R139). -/
def Obligations.SlotsStandWhereTheirStateSays : Prop :=
  ∀ (c : Instr) (s t : State), s.CollectionsSound → exec c s = .next t → t.CollectionsSound

/-- While the port is RUNNING or DRAINING the rings are as R152 accepts them, the indices lie in them, and a write in flight
goes to an entry that leaves one more free, so that the records not yet released never exceed the ring size minus one (R152,
R158, R159, R184). -/
def Obligations.RingIndicesStayInRange : Prop :=
  ∀ (c : Instr) (s t : State),
    (s.port.state.serving → s.port.RingsSound s.reports.write.isSome) → exec c s = .next t →
    t.port.state.serving → t.port.RingsSound t.reports.write.isSome

/-! ### The command unit and the action table -/

/-- A NOP is answered OK and an unknown opcode BAD_OPCODE, in every state of every block, and nothing else changes
(R168). -/
def Obligations.NopAndUnknownOpcodeAreAnswered : Prop :=
  ∀ (s : State) (c : InHand), s.cmd.state = .holding c →
    (byteAt c.record 0 = 0x00 → exec .nop s = .next (s.answered c .ok none .none)) ∧
    (0x12 < (byteAt c.record 0).toNat → exec .badOpcode s = .next (s.answered c .badOpcode none .none))

/-- DEFINE_ACTION enters READING with the command in hand when its 64 bytes can be addressed, and is answered
DESCRIPTOR_FAULT when they cannot (R6, R171). -/
def Obligations.DefineActionIssuesTheRead : Prop :=
  ∀ (s : State) (c : InHand), s.holds c 0x01 →
    ((le32 c.record 4).toNat + 64 ≤ 2 ^ 32 →
      exec .defineAction s = .next { s with cmd := { s.cmd with state := .reading c } }) ∧
    (2 ^ 32 < (le32 c.record 4).toNat + 64 →
      exec .defineAction s = .next (s.answered c .descriptorFault none .none))

/-- The end of a descriptor read. A valid descriptor fills the lowest-numbered FREE slot, which becomes IDLE with its
generation kept, and its handle is answered; a bus error gives DESCRIPTOR_FAULT, an invalid field BAD_FIELD with its
number, a full table TABLE_FULL, each leaving the table as it was; an abandoned read's end has no effect (R6, R7, R13,
R14, R172). -/
def Obligations.DescriptorReadEndFillsASlotOrIsRefused : Prop :=
  (∀ (s : State) (c : InHand) (d : Descriptor) (a : Action) (i : SlotId),
      s.cmd.state = .reading c → validateDescriptor d = .ok a →
      (s.slot i).held = none → (∀ j, j < i → (s.slot j).held ≠ none) →
      exec (.descriptorReadEnd (.data d)) s = .next
        ((s.withSlot i { gen := (s.slot i).gen, held := some (a.begun .idle none) }).answered c .ok none
          (.defined { slot := i, gen := (s.slot i).gen }))) ∧
  (∀ (s : State) (c : InHand),
      (s.cmd.state = .reading c →
        exec (.descriptorReadEnd .error) s = .next (s.answered c .descriptorFault none .none) ∧
        (∀ d n, validateDescriptor d = .error n →
          exec (.descriptorReadEnd (.data d)) s = .next (s.answered c .badField (some n) .none)) ∧
        (∀ d a, validateDescriptor d = .ok a → (∀ i, (s.slot i).held ≠ none) →
          exec (.descriptorReadEnd (.data d)) s = .next (s.answered c .tableFull none .none))) ∧
      ((s.cmd.state = .idle ∨ s.cmd.state = .holding c) → ∀ ending, exec (.descriptorReadEnd ending) s = .next s))

/-- The validation of a descriptor. The first field, in the order of table 1.2, that its row does not accept gives its
number; when every row accepts, the action holds each field as its bytes of table 11.4 say it (R7 to R12, R196). -/
def Obligations.DescriptorIsValidatedFieldByField : Prop :=
  ∀ (d : Descriptor),
    let kind := (byteAt d 0).toNat
    let instant := (le64 d 8).toNat
    let period := (le64 d 16).toNat
    let count := (le16 d 24).toNat
    let channel := (byteAt d 4).toNat
    let operation := (byteAt d 5).toNat
    let months := (le16 d 12).setWidth 12
    let weekdays := (byteAt d 14).setWidth 7
    let field (i top : Nat) := (byteAt d i).toNat ≤ top ∨ byteAt d i = 0xFF
    let day := (byteAt d 11).toNat
    let train := 1 ≤ (le32 d 36).toNat ∧ (le32 d 36).toNat ≤ 2 ^ 24 - 1 ∧ 1 ≤ (le32 d 40).toNat ∧
      (le32 d 40).toNat ≤ 2 ^ 24 - 1 ∧ 1 ≤ (le16 d 44).toNat
    let accepts (n : Nat) : Prop :=
      match n with
      | 1 => kind ≤ 4
      | 2 => (kind = 0 → instant ≤ 2 ^ 52 - 1) ∧ (kind = 1 → instant ≤ 3155760000 * 2 ^ 20 - 1) ∧
          (kind = 2 ∨ kind = 4 → instant ≤ 2 ^ 44) ∧
          (kind = 3 → field 8 59 ∧ field 9 59 ∧ field 10 23 ∧ ((1 ≤ day ∧ day ≤ 31) ∨ day = 0xFE ∨ day = 0xFF) ∧
            months ≠ 0 ∧ weekdays ≠ 0) ∧
          (kind = 4 → (byteAt d 1).toNat ≤ 3 ∧ (byteAt d 2).toNat ≤ 1)
      | 3 => period = 0 ∨ (kind ≠ 3 ∧ 1024 ≤ period ∧ period ≤ 2 ^ 44)
      | 4 => kind = 3 ∨ period ≠ 0 ∨ count = 1
      | 6 => (byteAt d 3).toNat ≤ 1
      | 7 => channel ≤ 7 ∨ channel = 0xFF
      | 8 => if channel = 0xFF then operation = 0
          else (1 ≤ operation ∧ operation ≤ 3) ∨ (operation = 4 ∧ train)
      | 9 => (byteAt d 6).toNat ≤ 3
      | _ => True
    let optional (i : Nat) : Option Nat := if byteAt d i = 0xFF then none else some (byteAt d i).toNat
    (∀ n, ¬ accepts n → (∀ m, m < n → accepts m) → validateDescriptor d = .error n) ∧
    ((∀ n, accepts n) → ∃ a, validateDescriptor d = .ok a ∧
      (kind = 0 → a.trigger = .atMono instant) ∧ (kind = 1 → a.trigger = .atWall instant) ∧
      (kind = 2 → a.trigger = .after instant) ∧
      (kind = 3 → a.trigger = .pattern
        { second := optional 8, minute := optional 9, hour := optional 10,
          day := if day = 0xFF then .any else if day = 0xFE then .last else .day day,
          months := months, weekdays := weekdays }) ∧
      (kind = 4 → ∀ k : Fin 4, k.val = (byteAt d 1).toNat →
        a.trigger = .onCapture k instant (if byteAt d 2 = 0 then .once else .everyEdge)) ∧
      a.period = (if period = 0 then none else some period) ∧ a.count = count ∧
      a.lateLimit = (le32 d 28).toNat ∧ a.latePolicy = (if byteAt d 3 = 0 then .fireLate else .skip) ∧
      (channel = 0xFF → a.output = none) ∧
      (∀ ch : Fin 8, ch.val = channel → a.output = some
        { channel := ch
          operation := if operation = 1 then .setHigh else if operation = 2 then .setLow
            else if operation = 3 then .toggle
            else .train (le32 d 36).toNat (le32 d 40).toNat (le16 d 44).toNat }) ∧
      a.busy = (if byteAt d 6 = 0 then .queue else if byteAt d 6 = 1 then .replace
        else if byteAt d 6 = 2 then .flush else .drop) ∧
      a.fireReports = (byteAt d 7).getLsbD 0 ∧ a.doneReports = (byteAt d 7).getLsbD 1 ∧
      a.autoRelease = (byteAt d 7).getLsbD 2 ∧ a.tag = le32 d 32 ∧
      ((byteAt d 7).getLsbD 3 = false → a.followOn = none) ∧
      ((byteAt d 7).getLsbD 3 = true → ∃ h, a.followOn = some h ∧ h.slot.val = (byteAt d 26).toNat ∧
        h.gen.val = (byteAt d 27).toNat))

/-- ARM of an IDLE action begins its run and places it by its trigger, as table 1.7 says (R14, R15, R27, R94, R139). A
due already reached is placed like any other: its occurrence is an EXPIRY of the same mono instant (log entry 7). -/
def Obligations.ArmPlacesByTrigger : Prop :=
  ∀ (s : State) (c : InHand) (h : Handle) (x : Held), s.holds c 0x02 → h = handleAt c.record 4 →
    (s.slot h.slot).gen = h.gen → (s.slot h.slot).held = some x → x.state = .idle →
    (∀ due, x.action.trigger = .atMono due →
      exec .arm s = .next
        (({ s with sched := { s.sched with monoDue := s.joined h.slot due s.sched.monoDue } }.withSlot h.slot
          { gen := h.gen, held := some (x.action.begun .pending (some ⟨.mono, due⟩)) }).answered c .ok none
            (.armed h .pending (some ⟨.mono, due⟩)))) ∧
    (∀ delay, x.action.trigger = .after delay →
      exec .arm s = .next
        (({ s with sched := { s.sched with
              monoDue := s.joined h.slot (s.time.mono + delay) s.sched.monoDue } }.withSlot h.slot
          { gen := h.gen, held := some (x.action.begun .pending (some ⟨.mono, s.time.mono + delay⟩)) }).answered c .ok none
            (.armed h .pending (some ⟨.mono, s.time.mono + delay⟩)))) ∧
    (∀ due, x.action.trigger = .atWall due → s.wall.state ≠ .unset →
      exec .arm s = .next
        (({ s with sched := { s.sched with wallDue := s.joined h.slot due s.sched.wallDue } }.withSlot h.slot
          { gen := h.gen, held := some (x.action.begun .pending (some ⟨.wall, due⟩)) }).answered c .ok none
            (.armed h .pending (some ⟨.wall, due⟩)))) ∧
    (∀ p, x.action.trigger = .pattern p → s.wall.state ≠ .unset →
      exec .arm s = .next
        (({ s with sched := { s.sched with patterns := insertSlot h.slot s.sched.patterns } }.withSlot h.slot
          { gen := h.gen, held := some (x.action.begun .watching none) }).answered c .ok none (.armed h .watching none))) ∧
    (∀ k delay rearm, x.action.trigger = .onCapture k delay rearm →
      exec .arm s = .next
        (({ s with sched := { s.sched with waits := s.sched.waits.set k.val (s.sched.waits[k.val] ++ [h.slot]) } }.withSlot
          h.slot { gen := h.gen, held := some (x.action.begun .waiting none) }).answered c .ok none
            (.armed h .waiting none)))

/-- A handle command's handle is checked first, then the slot's state, then the wall's; a command that fails a check is
answered and has no other effect (R4, R15, R16, R18, R170). -/
def Obligations.HandleCommandsAreChecked : Prop :=
  ∀ (s : State) (c : InHand) (h : Handle), h = handleAt c.record 4 →
    (((s.slot h.slot).held = none ∨ (s.slot h.slot).gen ≠ h.gen) →
      (s.holds c 0x02 → exec .arm s = .next (s.answered c .badHandle none (.handleOnly h))) ∧
      (s.holds c 0x03 → exec .disarm s = .next (s.answered c .badHandle none (.handleOnly h))) ∧
      (s.holds c 0x04 → exec .release s = .next (s.answered c .badHandle none (.handleOnly h))) ∧
      (s.holds c 0x05 → exec .queryAction s = .next (s.answered c .badHandle none (.handleOnly h)))) ∧
    (∀ x, (s.slot h.slot).gen = h.gen → (s.slot h.slot).held = some x →
      (x.state ≠ .idle →
        (s.holds c 0x02 → exec .arm s = .next (s.answered c .wrongState none (.stateFound h x.state))) ∧
        (s.holds c 0x04 → exec .release s = .next (s.answered c .wrongState none (.stateFound h x.state)))) ∧
      (s.holds c 0x02 → x.state = .idle → s.wall.state = .unset →
        ((∃ due, x.action.trigger = .atWall due) ∨ ∃ p, x.action.trigger = .pattern p) →
        exec .arm s = .next (s.answered c .wallUnset none (.handleOnly h))) ∧
      (s.holds c 0x03 → 2 < (byteAt c.record 6).toNat →
        exec .disarm s = .next (s.answered c .badField (some 2) (.handleOnly h))))

/-- DISARM takes a slot out of every collection and makes it IDLE with its counts kept; with option NONE, or for an
event-only action, nothing is withdrawn (R16, R28). -/
def Obligations.DisarmMakesTheSlotIdle : Prop :=
  ∀ (s : State) (c : InHand) (h : Handle) (x : Held), s.holds c 0x03 → h = handleAt c.record 4 →
    (s.slot h.slot).gen = h.gen → (s.slot h.slot).held = some x → (byteAt c.record 6).toNat ≤ 2 →
    (byteAt c.record 6 = 0 ∨ x.action.output = none) →
    exec .disarm s = .next
      (({ s with sched :=
            { s.sched with monoDue := s.sched.monoDue.filter (· ≠ h.slot), wallDue := s.sched.wallDue.filter (· ≠ h.slot),
                           patterns := s.sched.patterns.filter (· ≠ h.slot),
                           waits := s.sched.waits.map (List.filter (· ≠ h.slot)),
                           found := s.sched.found.filter (·.slot ≠ h.slot) } }.withSlot h.slot
        { gen := h.gen, held := some { x with state := .idle, nextDue := none } }).answered c .ok none
          (.disarmed h x.state 0 0))

/-- DISARM with option QUEUED or ALL also withdraws the action's instances from its channel by the full handle: none
waits after it, with ALL none runs, the other waiting instances keep their order, the other channels are untouched, and
the counts withdrawn are answered. Each instance withdrawn with its done reports on is reported WITHDRAWN, the running one
first and then the waiting ones, oldest first; the place of the answer among these records of one event is left open, and
the starts of R160 and R184 conclude the event (R16, R124, R125, R160, R180, R184). -/
def Obligations.DisarmWithdrawsInstances : Prop :=
  ∀ (s : State) (c : InHand) (h : Handle) (x : Held) (out : Output), s.holds c 0x03 → h = handleAt c.record 4 →
    (s.slot h.slot).gen = h.gen → (s.slot h.slot).held = some x → x.action.output = some out →
    (byteAt c.record 6 = 1 ∨ byteAt c.record 6 = 2) →
    let ch := s.chan out.channel
    let runs := byteAt c.record 6 = 2 ∧ ∃ r, ch.running = some r ∧ r.inst.handle = h
    let kept := ch.queue.filter fun i => i.handle ≠ h
    let answer := c.answer .ok none (.disarmed h x.state (ch.queue.countP fun i => i.handle == h)
      (if ch.runningHandle = some h ∧ byteAt c.record 6 = 2 then 1 else 0))
    let stopped : List Report := match ch.running with
      | some r =>
        if byteAt c.record 6 = 2 ∧ r.inst.handle = h ∧ r.inst.doneReports = true then
          [.done { handle := h, tag := r.inst.tag, channel := some out.channel, reason := .withdrawn, start := some r.start,
                   ending := s.time.mono, pulses := r.pulses, followOn := .none }]
        else []
      | none => []
    let dropped : List Report := (ch.queue.filter fun i => i.handle = h ∧ i.doneReports = true).map fun i =>
      .done { handle := h, tag := i.tag, channel := some out.channel, reason := .withdrawn, start := none,
              ending := s.time.mono, pulses := 0, followOn := .none }
    ∃ t, exec .disarm s = .next (s.concluded t) ∧ s.sameOutsideSlotAndChannels t h.slot ∧
      t.slot h.slot = { gen := h.gen, held := some { x with state := .idle, nextDue := none } } ∧
      (∀ k, k ≠ out.channel → t.chan k = s.chan k) ∧
      (¬ runs → t.chan out.channel = { ch with queue := kept }) ∧
      (runs → kept = [] → t.chan out.channel = { ch with state := .idle, running := none, queue := [] }) ∧
      (runs → ∀ i rest, kept = i :: rest → (t.chan out.channel).queue = rest ∧
        ∃ r, (t.chan out.channel).running = some r ∧ r.inst = i ∧ r.start = s.time.mono) ∧
      answer ∈ t.reports.records ∧ t.reports.reservations = s.reports.reservations - 1 ∧
      t.cmd = { s.cmd with state := .idle } ∧
      (s.port.state = .running → s.reports.lost = 0 →
        s.reports.records.length + s.reports.reservations + (stopped ++ dropped).length ≤ 32 →
        ∃ n, t.reports.records =
          s.reports.records ++ (stopped ++ dropped).take n ++ answer :: (stopped ++ dropped).drop n)

/-- RELEASE frees an IDLE slot with its generation raised by one, mod 256, and answers the handle as released (R3,
R18). -/
def Obligations.ReleaseFreesTheSlot : Prop :=
  ∀ (s : State) (c : InHand) (h : Handle) (x : Held), s.holds c 0x04 → h = handleAt c.record 4 →
    (s.slot h.slot).gen = h.gen → (s.slot h.slot).held = some x → x.state = .idle → s.CollectionsSound →
    exec .release s = .next
      ((s.withSlot h.slot { gen := ⟨(h.gen.val + 1) % 256, Nat.mod_lt _ (by decide)⟩, held := none }).answered c .ok none
        (.handleOnly h))

/-- QUERY_ACTION answers the slot as it stands and changes nothing (R19, R104). -/
def Obligations.QueryReportsTheSlot : Prop :=
  ∀ (s : State) (c : InHand) (h : Handle) (x : Held), s.holds c 0x05 → h = handleAt c.record 4 →
    (s.slot h.slot).gen = h.gen → (s.slot h.slot).held = some x →
    exec .queryAction s = .next (s.answered c .ok none (.queried
      { handle := h
        state := x.state
        nextDue := if x.state = .pending then x.nextDue else none
        lastFired := if x.action.trigger.isPattern = true then x.lastFired else none
        fired := x.fired
        remaining := x.remaining
        counts := match x.action.output with
          | none => none
          | some out => some ((s.chan out.channel).queue.countP (fun i => i.handle == h),
              decide ((s.chan out.channel).runningHandle = some h)) }))

/-! ### The scheduler -/

/-- SUSPEND stops a RUNNING scheduler and keeps every collection; RESUME starts a SUSPENDED one, here with nothing due
and no member of the pattern set to evaluate; each, taken otherwise, is answered WRONG_STATE (R31, R32, R101). -/
def Obligations.SuspendAndResumeTheScheduler : Prop :=
  ∀ (s : State) (c : InHand),
    (s.holds c 0x06 → s.sched.state = .running → exec .suspend s = .next
      ({ s with sched := { s.sched with state := .suspended } }.answered c .ok none .none)) ∧
    (s.holds c 0x06 → s.sched.state = .suspended → exec .suspend s = .next (s.answered c .wrongState none .none)) ∧
    (s.holds c 0x07 → s.sched.state = .suspended → s.nothingDue → s.sched.patterns = [] → exec .resume s = .next
      ({ s with sched := { s.sched with state := .running } }.answered c .ok none .none)) ∧
    (s.holds c 0x07 → s.sched.state = .running → exec .resume s = .next (s.answered c .wrongState none .none))

/-- RESUME takes every occurrence that is due: after it no entry of either due list that is due has still to be taken at
this instant, unless its slot has had one, and every member that matches the whole second of wall now has been taken for it.
Wall time is judged as it stands, whether or not a slew step of the instant has been taken (log entry 8); the clocks, the
inputs and the port are not touched, and the starts of R160 and R184 conclude the event (R32, R35, R36, R101, R160, R184). -/
def Obligations.ResumeTakesEveryDueOccurrence : Prop :=
  ∀ (s : State) (c : InHand), s.holds c 0x07 → s.sched.state = .suspended → s.CollectionsSound →
    ∃ t, exec .resume s = .next (s.concluded t) ∧ t.sched.state = .running ∧ t.time = s.time ∧ t.wall = s.wall ∧
      t.caps = s.caps ∧ t.port = s.port ∧ t.cmd = { s.cmd with state := .idle } ∧ t.reports.write = s.reports.write ∧
      c.answer .ok none .none ∈ t.reports.records ∧ t.reports.reservations = s.reports.reservations - 1 ∧
      (∀ i ∈ t.sched.monoDue, t.dueOf i ≤ s.time.mono → i ∈ t.sched.taken) ∧
      (∀ i ∈ s.sched.monoDue, s.dueOf i ≤ s.time.mono → i ∈ t.sched.taken) ∧
      (s.wall.state ≠ .unset →
        (∀ i ∈ t.sched.wallDue, t.dueOf i ≤ s.wallNow → i ∈ t.sched.taken) ∧
        (∀ i ∈ s.sched.wallDue, s.dueOf i ≤ s.wallNow → i ∈ t.sched.taken) ∧
        s.tookMatches t (s.wallNow / 2 ^ 20))

/-- EXPIRY takes the entry that comes first among those due: a mono entry that is due and stands first of those that may be
taken, no wall entry coming before it, or such a wall entry that comes before every mono entry by its mono equivalent, and in
either case no pattern occurrence that waits to be taken coming before it. It is late by its clock's present instant minus
its due, fires or is skipped by its limit and policy, counts the occurrences it missed, and is rearmed in phase or ends its
run, with its reports and its firing's effect as expiryTakes says. The slot has had its occurrence of this mono instant, and
nothing else changes (R29, R35 to R45, R20, R50, R98, R114, R184). Mono equivalents are those after the slew step of this
instant, and a wall entry due at the very instant that such a step still to be taken moves from is left until the step (log
entry 8). A second boundary still to be taken does not hold back an entry that comes before its matches. -/
def Obligations.ExpiryTakesTheDueEntry : Prop :=
  ∀ (s : State) (i : SlotId) (h : Held) (due : Due) (front rest : List SlotId),
    s.sched.state = .running → s.CollectionsSound →
    (s.slot i).held = some h → h.nextDue = some due → i ∉ s.sched.taken → (∀ j ∈ front, j ∈ s.sched.taken) →
    (due.clock = .mono ∧ s.sched.monoDue = front ++ i :: rest ∧ due.instant ≤ s.time.mono ∧
        (s.wall.state = .unset ∨ ∀ j ∈ s.sched.wallDue, j ∉ s.sched.taken →
          (due.instant : Int) ≤ (s.dueOf j : Int) - s.offsetThen) ∨
      due.clock = .wall ∧ s.sched.wallDue = front ++ i :: rest ∧ s.wall.state ≠ .unset ∧
        (due.instant < s.wallNow ∨ due.instant = s.wallNow ∧ s.stepDue = false) ∧
        ∀ j ∈ s.sched.monoDue, j ∉ s.sched.taken → (due.instant : Int) - s.offsetThen < (s.dueOf j : Int)) →
    let equivalent : Int := match due.clock with
      | .mono => (due.instant : Int)
      | .wall => (due.instant : Int) - s.offsetThen
    (∀ m ∈ s.sched.found, equivalent ≤ (s.time.mono : Int) - (m.lateness : Int)) →
    (s.wall.state = .unset ∨ s.wallThen / 2 ^ 20 ≤ s.wall.lastSecond ∨
      equivalent ≤ (s.time.mono : Int) - ((s.wallThen % 2 ^ 20 : Nat) : Int)) →
    let now := match due.clock with
      | .mono => s.time.mono
      | .wall => s.wallNow
    let lastInstant := match due.clock with
      | .mono => 2 ^ 52 - 1
      | .wall => 3155760000 * 2 ^ 20 - 1
    let handle : Handle := ⟨i, (s.slot i).gen⟩
    let late := now - due.instant
    let fires := late ≤ h.action.lateLimit ∨ h.action.latePolicy = .fireLate
    let missed := match h.action.period, h.remaining with
      | none, _ => 0
      | some p, .unlimited => late / p
      | some p, .limited r => min (late / p) (r - 1)
    let left : Remaining := match h.remaining with
      | .unlimited => .unlimited
      | .limited r => .limited (r - (1 + missed))
    let next : Option Nat := match h.action.period with
      | none => none
      | some p => if left = .limited 0 ∨ lastInstant < due.instant + (missed + 1) * p then none
        else some (due.instant + (missed + 1) * p)
    let counted : Held := { h with
      remaining := left, fired := if fires then min (2 ^ 32 - 1) (h.fired + 1) else h.fired, nextDue := none }
    let removed : Sched := match due.clock with
      | .mono => { s.sched with monoDue := front ++ rest, taken := i :: s.sched.taken }
      | .wall => { s.sched with wallDue := front ++ rest, taken := i :: s.sched.taken }
    let moved : State := match next with
      | some n => { s with sched := match due.clock with
          | .mono => { removed with monoDue := s.joined i n (front ++ rest) }
          | .wall => { removed with wallDue := s.joined i n (front ++ rest) } }.withSlot i
            ⟨(s.slot i).gen, some { counted with nextDue := some { due with instant := n } }⟩
      | none => match h.action.trigger with
        | .onCapture k _ .everyEdge =>
          { s with sched := { removed with waits := s.sched.waits.set k.val (s.sched.waits[k.val] ++ [i]) } }.withSlot i
            ⟨(s.slot i).gen, some { counted with state := .waiting }⟩
        | _ => { s with sched := removed }.withSlot i
            (if h.action.autoRelease then ⟨(s.slot i).gen + 1, none⟩
              else ⟨(s.slot i).gen, some { counted with state := .idle }⟩)
    let occurrence : Occurrence :=
      { handle := handle, tag := h.action.tag, due := due, instant := s.time.mono, lateness := min (2 ^ 32 - 1) late,
        missed := min 65535 missed, remaining := left, last := next.isNone }
    s.expiryTakes moved h.action occurrence late

/-- While the scheduler is not RUNNING, or nothing is due, an EXPIRY finds nothing to take, and by the model's reading
changes nothing (log entry 2). It waits, too, where the occurrence that comes first is an entry that a forward slew step of
this instant passes over, or a match of the second boundary of this instant, and the step or the boundary has still to be
taken, as R35, R50 and R98 order them (log entries 7 and 8). A second boundary at which the scheduler is not RUNNING, or no
member of the pattern set matches, is passed by: only the second in which wall time lies is noted, which is a field of the
model's own, as is the test of it that says when a boundary is due (log entry 24; R30, R33 to R35, R86, R98). -/
def Obligations.NothingIsTakenWithoutCause : Prop :=
  ∀ (s : State),
    ((s.sched.state ≠ .running ∨ s.nothingDue) → exec .expiry s = .next s) ∧
    (∀ w, s.stepDue = true → s.wall.slew = some w → 0 < w.remainder → s.wall.state ≠ .unset → s.CollectionsSound →
      0 ≤ (s.time.mono : Int) + s.wall.offset → s.sched.found = [] →
      (∃ i ∈ s.sched.wallDue, i ∉ s.sched.taken ∧ s.dueOf i = s.wallNow) →
      (∀ j ∈ s.sched.wallDue, j ∉ s.sched.taken → s.wallNow ≤ s.dueOf j) →
      (∀ j ∈ s.sched.monoDue, j ∉ s.sched.taken → s.time.mono ≤ s.dueOf j) → exec .expiry s = .next s) ∧
    (s.time.exhausted = false → s.wall.state ≠ .unset → s.wall.lastSecond < s.wallThen / 2 ^ 20 → s.CollectionsSound →
      (∃ i ∈ s.sched.patterns, i ∉ s.sched.taken ∧ (∀ m ∈ s.sched.found, m.slot ≠ i) ∧
        ∃ h, (s.slot i).held = some h ∧ h.matches (s.wallThen / 2 ^ 20) = true) →
      let first : Int := (s.time.mono : Int) - ((s.wallThen % 2 ^ 20 : Nat) : Int)
      (∀ j ∈ s.sched.monoDue, j ∉ s.sched.taken → first < (s.dueOf j : Int)) →
      (∀ j ∈ s.sched.wallDue, j ∉ s.sched.taken → first < (s.dueOf j : Int) - s.offsetThen) →
      (∀ m ∈ s.sched.found, first < (s.time.mono : Int) - (m.lateness : Int)) → exec .expiry s = .next s) ∧
    (s.wall.state ≠ .unset → s.time.exhausted = false → s.stepDue = false → s.wall.lastSecond < s.wallNow / 2 ^ 20 →
      (s.sched.state ≠ .running ∨
        ∀ i ∈ s.sched.patterns, ∀ h, (s.slot i).held = some h → h.matches (s.wallNow / 2 ^ 20) = false) →
      exec .runningSecondBoundary s = .next { s with wall := { s.wall with lastSecond := s.wallNow / 2 ^ 20 } })

/-- The admission of a fire instance by its busy policy and the channel's condition (table 6.2, R110 to R113). The instances
that REPLACE and FLUSH end are reported when their done reports are on, and no other instance is: the running one ABORTED,
then the waiting ones DISCARDED, oldest first (R121, R123, R125). -/
def Obligations.AdmissionFollowsTheBusyPolicy : Prop :=
  ∀ (c : Channel) (ch : Fin 8) (now : Nat) (i : FireInst), c.Sound →
    let a := c.arrive ch now i
    let aborted : List DoneReport := match c.running with
      | some r =>
        if r.inst.doneReports then
          [{ handle := r.inst.handle, tag := r.inst.tag, channel := some ch, reason := .aborted, start := some r.start,
             ending := now, pulses := r.pulses, followOn := .none }]
        else []
      | none => []
    let discarded : List DoneReport := (c.queue.filter fun k => k.doneReports).map fun k =>
      { handle := k.handle, tag := k.tag, channel := some ch, reason := .discarded, start := none, ending := now,
        pulses := 0, followOn := .none }
    (c.state = .disabled → a.outcome = .channelOff ∧ a.channel = c ∧ a.dones = []) ∧
    (c.state = .idle → a.outcome = .started ∧ a.channel.queue = [] ∧ a.dones = [] ∧
      ∃ r, a.channel.running = some r ∧ r.inst = i ∧ r.start = now) ∧
    (c.running ≠ none →
      (i.busy = .queue → c.queue.length < 8 → a.outcome = .queued ∧ a.dones = [] ∧
        a.channel = { c with queue := c.queue ++ [i] }) ∧
      ((i.busy = .queue ∧ c.queue.length = 8 ∨ i.busy = .drop) → a.outcome = .dropped ∧ a.channel = c ∧ a.dones = []) ∧
      (i.busy = .replace → a.outcome = .started ∧ a.channel.queue = c.queue ∧ a.dones = aborted ∧
        ∃ r, a.channel.running = some r ∧ r.inst = i ∧ r.start = now) ∧
      (i.busy = .flush → a.outcome = .started ∧ a.channel.queue = [] ∧ a.dones = aborted ++ discarded ∧
        ∃ r, a.channel.running = some r ∧ r.inst = i ∧ r.start = now))

/-- A pattern accepts a wall second by the five conditions of R96. A second boundary finds the members that match the new
second, each with its lateness, and the EXPIRYs of that same mono instant take each of them once: each has that second as its
last-fired one, unless its run's end has made its slot FREE (R86, R98, R99, R102 to R104). The EXPIRY that takes one, when no
entry of a due list and no other occurrence found comes before it, leaves the slot WATCHING with one occurrence fewer to
take, or ends its run, IDLE or FREE; the occurrence is due at the start of its second on the wall clock, has its lateness of
the evaluation and no missed ones, and fires or is skipped as expiryTakes says (R35, R37, R98, R102, R103). When a boundary
is due is judged by a field of the model's own (log entry 24); that the boundary notes its matches and EXPIRY takes them is
the model's reading (log entry 7). -/
def Obligations.BoundaryTakesEveryMatch : Prop :=
  (∀ (s : State), s.CollectionsSound → s.sched.state = .running → s.wall.state ≠ .unset → s.time.exhausted = false →
    s.stepDue = false → s.wall.lastSecond < s.wallNow / 2 ^ 20 → s.sched.found = [] →
    let second := s.wallNow / 2 ^ 20
    let matching (i : SlotId) : Prop :=
      i ∈ s.sched.patterns ∧ i ∉ s.sched.taken ∧ ∃ h, (s.slot i).held = some h ∧ h.matches second = true
    ∃ found,
      let t := { s with wall := { s.wall with lastSecond := second }, sched := { s.sched with found := found } }
      let u := afterExpiries 256 t
      exec .runningSecondBoundary s = .next t ∧
      (∀ m, m ∈ found ↔ matching m.slot ∧ m.second = second ∧ m.lateness = s.wallNow % 2 ^ 20) ∧
      u.time = s.time ∧ u.caps = s.caps ∧ u.port = s.port ∧ u.cmd = s.cmd ∧ u.wall = t.wall ∧ u.sched.state = .running ∧
      u.sched.found = [] ∧ s.tookMatches u second) ∧
  (∀ (s : State) (m : Match) (h : Held) (before behind : List Match), s.CollectionsSound → s.sched.state = .running →
    s.wallThen / 2 ^ 20 ≤ s.wall.lastSecond → s.sched.found = before ++ m :: behind → (s.slot m.slot).held = some h →
    (∀ n ∈ before ++ behind, n.lateness < m.lateness ∨ n.lateness = m.lateness ∧ m.slot < n.slot) →
    (∀ j ∈ s.sched.monoDue, j ∉ s.sched.taken → (s.time.mono : Int) - (m.lateness : Int) < (s.dueOf j : Int)) →
    (∀ j ∈ s.sched.wallDue, j ∉ s.sched.taken →
      (s.time.mono : Int) - (m.lateness : Int) < (s.dueOf j : Int) - s.offsetThen) →
    let fires := m.lateness ≤ h.action.lateLimit ∨ h.action.latePolicy = .fireLate
    let left : Remaining := match h.remaining with
      | .unlimited => .unlimited
      | .limited r => .limited (r - 1)
    let counted : Held := { h with
      remaining := left, fired := if fires then min (2 ^ 32 - 1) (h.fired + 1) else h.fired, lastFired := some m.second }
    let removed : Sched := { s.sched with found := before ++ behind, taken := m.slot :: s.sched.taken }
    let moved : State :=
      if left = .limited 0 then
        { s with sched := { removed with patterns := s.sched.patterns.filter (· ≠ m.slot) } }.withSlot m.slot
          (if h.action.autoRelease then ⟨(s.slot m.slot).gen + 1, none⟩
            else ⟨(s.slot m.slot).gen, some { counted with state := .idle, nextDue := none }⟩)
      else { s with sched := removed }.withSlot m.slot ⟨(s.slot m.slot).gen, some counted⟩
    s.expiryTakes moved h.action
      { handle := ⟨m.slot, (s.slot m.slot).gen⟩, tag := h.action.tag, due := ⟨.wall, m.second * 2 ^ 20⟩,
        instant := s.time.mono, lateness := min (2 ^ 32 - 1) m.lateness, missed := 0, remaining := left,
        last := decide (left = .limited 0) }
      m.lateness) ∧
  ∀ (h : Held) (p : Pattern) (second : Nat), h.action.trigger = .pattern p → second < 3155760000 →
    let c := calendarOfSecond second
    let length := if c.month = 2 then (if c.year % 4 = 0 then 29 else 28)
      else if c.month = 4 ∨ c.month = 6 ∨ c.month = 9 ∨ c.month = 11 then 30 else 31
    (h.matches second = true ↔
      (p.second = none ∨ p.second = some c.second) ∧ (p.minute = none ∨ p.minute = some c.minute) ∧
      (p.hour = none ∨ p.hour = some c.hour) ∧
      (p.day = .any ∨ p.day = .day c.day ∨ p.day = .last ∧ c.day = length) ∧
      p.months.getLsbD (c.month - 1) = true ∧ p.weekdays.getLsbD (c.weekday - 1) = true ∧
      ∀ last, h.lastFired = some last → last < second)

/-! ### The wall clock and the calendar -/

/-- The calendar conversion and its inverse agree: every wall second of the range gives valid calendar fields that
convert back to it, with the weekday of R71, and every valid date and time converts to a wall second that gives those
fields (R71, R74). -/
def Obligations.CalendarConversionIsInvertible : Prop :=
  (∀ n, n < 3155760000 →
    calendarError (calendarOfSecond n) 0 = none ∧ secondOfCalendar (calendarOfSecond n) = n ∧
      (calendarOfSecond n).weekday = (n / 86400 + 5) % 7 + 1) ∧
  (∀ c fraction, calendarError c fraction = none →
    secondOfCalendar c < 3155760000 ∧
      calendarOfSecond (secondOfCalendar c) = { c with weekday := (secondOfCalendar c / 86400 + 5) % 7 + 1 })

/-- A snap rounds to the nearest whole second or minute, a half rounding up (R81). -/
def Obligations.SnapRoundsToTheNearest : Prop :=
  ∀ (u : SnapUnit) (t : Nat),
    let length := match u with
      | .second => 1048576
      | .minute => 62914560
    u.round t % length = 0 ∧ -((length : Int) / 2) ≤ (u.round t : Int) - (t : Int) ∧
      (u.round t : Int) - (t : Int) ≤ (length : Int) / 2 ∧
      (length ≤ 2 * (t % length) → t < u.round t) ∧ (2 * (t % length) < length → u.round t ≤ t)

/-- READ_TIME answers both clocks as they stand and changes nothing (R72). Where a forward slew step brings the range end,
wall time stands one FU short of the last FU until the range end is taken, by the model's choice (log entry 31). -/
def Obligations.ReadTimeReportsBothClocks : Prop :=
  ∀ (s : State) (c : InHand), s.holds c 0x08 →
    exec .readTime s = .next (s.answered c .ok none (.time
      { mono := s.time.mono
        wall := if s.wall.state = .unset then none else some ((s.time.mono : Int) + s.wall.offset).toNat
        state := s.wall.state
        disc := s.time.disc.state }))

/-- SET_TIME answers the first field of table 4.3 whose bytes of table 11.3 are not valid, and with the wall UNSET begins
wall time at the instant its fields name, without a change to report: the instant whose calendar fields they are (R71, R73,
R74, tables 4.2, 4.3 and 11.3). -/
def Obligations.SetTimeBeginsWallTime : Prop :=
  ∀ (s : State) (c : InHand), s.holds c 0x09 →
    let year := (le16 c.record 4).toNat
    let month := (byteAt c.record 6).toNat
    let day := (byteAt c.record 7).toNat
    let hour := (byteAt c.record 8).toNat
    let minute := (byteAt c.record 9).toNat
    let second := (byteAt c.record 10).toNat
    let fraction := (le32 c.record 12).toNat
    let length := if month = 2 then (if year % 4 = 0 then 29 else 28)
      else if month = 4 ∨ month = 6 ∨ month = 9 ∨ month = 11 then 30 else 31
    let d : Calendar := ⟨year, month, day, hour, minute, second, 0⟩
    let accepts (n : Nat) : Prop :=
      match n with
      | 1 => 2000 ≤ year ∧ year ≤ 2099
      | 2 => 1 ≤ month ∧ month ≤ 12
      | 3 => 1 ≤ day ∧ day ≤ length
      | 4 => hour ≤ 23
      | 5 => minute ≤ 59
      | 6 => second ≤ 59
      | 7 => fraction ≤ 1048575
      | _ => True
    setTimeFields c.record = d ∧
    (∀ n, ¬ accepts n → (∀ m, m < n → accepts m) → calendarError d fraction = some n ∧
      exec .setTime s = .next (s.answered c .badField (some n) .none)) ∧
    ((∀ n, accepts n) → calendarError d fraction = none ∧
      (s.wall.state = .unset → s.wall.slew = none → s.cmd.adjust = none →
        ∃ whole, calendarOfSecond whole = { d with weekday := (whole / 86400 + 5) % 7 + 1 } ∧ whole < 3155760000 ∧
          exec .setTime s = .next
            ({ s with wall := { s.wall with state := .running,
                                            offset := ((whole * 2 ^ 20 + fraction : Nat) : Int) - (s.time.mono : Int),
                                            lastSecond := whole } }.answered c .ok none
              (.wallChanged (whole * 2 ^ 20 + fraction) none))))

/-- A wall change by SET_TIME, STEP_TIME or SNAP_TIME with source NOW, taken while there is wall time: the offset places
wall time at the new instant, the wall is RUNNING, a slew in flight is over with a SUPERSEDED completion that carries the
amount applied, the change is answered, and neither mono time nor a pending SNAP nor a line is moved by it (R46, R73 to
R75, R82). A RUNNING scheduler takes what a forward change makes due, and what matches the landing second, in the same event;
a change that is not forward makes no entry due (R47, R48, R87, R100). Where the last FU of the range is landed on in another
whole second, the range end of that instant may come before the landing second and leave the wall UNSET: which comes first is
a free value (R88, R106, log entry 28). Where a forward slew step brings the range end, a change taken first finds wall time
one FU short of the last FU, by the model's choice (log entry 31). The starts of R160 and R184 conclude the event. -/
def Obligations.WallChangeLandsOnTheNewInstant : Prop :=
  ∀ (s : State) (c : InHand) (cmd : Instr) (new : Nat), s.CollectionsSound → s.wall.state ≠ .unset →
    0 ≤ (s.time.mono : Int) + s.wall.offset →
    ((cmd = .setTime ∧ s.holds c 0x09 ∧ calendarError (setTimeFields c.record) (le32 c.record 12).toNat = none ∧
        new = secondOfCalendar (setTimeFields c.record) * 2 ^ 20 + (le32 c.record 12).toNat) ∨
      (cmd = .stepTime ∧ s.holds c 0x0A ∧ (new : Int) = (s.time.mono : Int) + s.wall.offset + (le64 c.record 8).toInt ∧
        new ≤ 3155760000 * 2 ^ 20 - 1) ∨
      (cmd = .snapTime ∧ s.holds c 0x0C ∧ byteAt c.record 5 = 0 ∧
        ((byteAt c.record 4 = 0 ∧ new = SnapUnit.second.round s.wallNow) ∨
          (byteAt c.record 4 = 1 ∧ new = SnapUnit.minute.round s.wallNow)) ∧ new ≤ 3155760000 * 2 ^ 20 - 1)) →
    let landing := new / 2 ^ 20 ≠ s.wallNow / 2 ^ 20
    let owed := if s.wall.slew.isSome = true ∧ s.cmd.adjust.isSome = true then 2 else 1
    ∃ t, exec cmd s = .next (s.concluded t) ∧ t.time = s.time ∧ t.port = s.port ∧ t.caps = s.caps ∧
      t.sched.state = s.sched.state ∧ t.reports.write = s.reports.write ∧
      c.answer .ok none (.wallChanged new (some ((new : Int) - (s.wallNow : Int)))) ∈ t.reports.records ∧
      (∀ w d, s.wall.slew = some w → s.cmd.adjust = some d →
        .completion { tag := d.tag, opcode := 0x0B, ringIndex := d.index, status := .superseded, fieldNo := none,
                      results := .applied w.applied } ∈ t.reports.records) ∧
      (s.sched.state = .running → s.wallNow < new → s.tookWhatIsDue t new) ∧
      ((t.wall = { s.wall with state := .running, offset := (new : Int) - (s.time.mono : Int), slew := none,
                               lastSecond := new / 2 ^ 20 } ∧
          t.wallNow = new ∧ t.cmd = { s.cmd with state := .idle, adjust := none } ∧
          t.reports.reservations = s.reports.reservations - owed ∧
          (s.sched.state = .running → s.sched.found = [] → landing → s.tookMatches t (new / 2 ^ 20)) ∧
          ((s.sched.state ≠ .running ∨ new ≤ s.wallNow ∧ (landing → ∀ i ∈ s.sched.patterns, ∀ h,
              (s.slot i).held = some h → h.matches (new / 2 ^ 20) = false)) →
            t.slots = s.slots ∧ t.sched = s.sched ∧ t.chans = s.chans)) ∨
        (landing ∧ new = 3155760000 * 2 ^ 20 - 1 ∧
          t.wall = { state := .unset, offset := 0, slew := none, snap := none, lastSecond := 0 } ∧
          t.sched.wallDue = [] ∧ t.sched.patterns = [] ∧ t.cmd = { state := .idle, adjust := none, snap := none } ∧
          t.reports.reservations = s.reports.reservations - owed -
            (if s.wall.snap.isSome = true ∧ s.cmd.snap.isSome = true then 1 else 0)))

/-- The refusals of STEP_TIME and of SNAP_TIME with source NOW, in their order, a rounding beyond the range among them for
either unit (R75, R81, R82, table 4.5); and a STEP_TIME that goes back within the present whole second, or by nothing, makes
nothing due and has no landing second: only the wall clock changes (R48, R87, R100). Where a forward slew step brings the
range end, a command taken first finds wall time one FU short of the last FU, by the model's choice (log entry 31). -/
def Obligations.StepAndSnapChecksAndTheLoneClockChange : Prop :=
  ∀ (s : State) (c : InHand),
    (s.holds c 0x0A → s.wall.state = .unset → exec .stepTime s = .next (s.answered c .wallUnset none .none)) ∧
    (s.holds c 0x0A → s.wall.state ≠ .unset →
      ((s.wallNow : Int) + (le64 c.record 8).toInt < 0 ∨
        3155760000 * 2 ^ 20 - 1 < (s.wallNow : Int) + (le64 c.record 8).toInt) →
      exec .stepTime s = .next (s.answered c .badField (some 1) .none)) ∧
    (s.holds c 0x0C → 1 < (byteAt c.record 4).toNat →
      exec .snapTime s = .next (s.answered c .badField (some 1) .noChange)) ∧
    (s.holds c 0x0C → (byteAt c.record 4).toNat ≤ 1 → 1 < (byteAt c.record 5).toNat →
      exec .snapTime s = .next (s.answered c .badField (some 2) .noChange)) ∧
    (s.holds c 0x0C → (byteAt c.record 4).toNat ≤ 1 → byteAt c.record 5 = 0 → s.wall.state = .unset →
      exec .snapTime s = .next (s.answered c .wallUnset none .none)) ∧
    (s.holds c 0x0C → byteAt c.record 4 = 0 → byteAt c.record 5 = 0 → s.wall.state ≠ .unset →
      3155760000 * 2 ^ 20 - 524288 ≤ s.wallNow →
      exec .snapTime s = .next (s.answered c .badField (some 1) .noChange)) ∧
    (s.holds c 0x0C → byteAt c.record 4 = 1 → byteAt c.record 5 = 0 → s.wall.state ≠ .unset →
      3155760000 * 2 ^ 20 - 31457280 ≤ s.wallNow →
      exec .snapTime s = .next (s.answered c .badField (some 1) .noChange)) ∧
    (s.holds c 0x0A → s.wall.state = .running → s.wall.slew = none → s.cmd.adjust = none →
      0 ≤ (s.time.mono : Int) + s.wall.offset → s.wallNow ≤ 3155760000 * 2 ^ 20 - 1 →
      (le64 c.record 8).toInt ≤ 0 → -(le64 c.record 8).toInt ≤ (s.wallNow % 2 ^ 20 : Nat) →
      exec .stepTime s = .next
        ({ s with wall := { s.wall with offset := s.wall.offset + (le64 c.record 8).toInt,
                                        lastSecond := s.wallNow / 2 ^ 20 } }.answered c .ok none
          (.wallChanged ((s.wallNow : Int) + (le64 c.record 8).toInt).toNat (some (le64 c.record 8).toInt))))

/-- ADJUST_TIME is checked in the order of R76; when its checks pass it begins a slew and is deferred, so that wall time
does not move, nothing is answered and the reservation stays held, except while the port is DRAINING, when it is answered
CANCELLED at once; either way the command unit is free for the next fetch (R76, R77, R90, R160, R173). -/
def Obligations.AdjustTimeBeginsASlew : Prop :=
  ∀ (s : State) (c : InHand), s.holds c 0x0B →
    let delta := (le64 c.record 8).toInt
    exec .adjustTime s =
      if delta = 0 ∨ 2 ^ 30 < delta.natAbs then .next (s.answered c .badField (some 1) .none)
      else if s.wall.state = .unset then .next (s.answered c .wallUnset none .none)
      else if s.wall.slew.isSome = true then .next (s.answered c .busy none .none)
      else if (s.wallNow : Int) + delta < 0 ∨ 3155760000 * 2 ^ 20 - 1 < (s.wallNow : Int) + delta then
        .next (s.answered c .badField (some 1) .none)
      else if s.port.state = .draining then .next (s.answered c .cancelled none (.applied 0))
      else .next (State.fetchStarted
        { s with
          wall := { s.wall with state := .slewing,
                                slew := some { delta := delta, remainder := delta, applied := 0,
                                               nextStep := s.time.mono + 1024 } }
          cmd := { s.cmd with state := .idle, adjust := some { tag := le16 c.record 2, index := c.index } } })

/-- A SNAP_TIME with source NEXT_REF that passes its checks becomes the pending SNAP with its wait end, and is deferred;
otherwise it is answered as table 4.5 and R90 say. The wait end of a pending SNAP answers it TIMEOUT and moves nothing
(R82, R83, R85, R90, R173, R174), but for the starts that such an event contains (R160, R184). -/
def Obligations.SnapTimeWaitsForTheReferenceOrTimesOut : Prop :=
  (∀ (s : State) (c : InHand) (u : SnapUnit), s.holds c 0x0C →
      (byteAt c.record 4 = 0 ∧ u = .second ∨ byteAt c.record 4 = 1 ∧ u = .minute) → byteAt c.record 5 = 1 →
      exec .snapTime s =
        if byteAt c.record 6 = 0 then .next (s.answered c .badField (some 3) .noChange)
        else if s.time.disc.state = .off then .next (s.answered c .noReference none .none)
        else if s.wall.snap.isSome = true then .next (s.answered c .busy none .none)
        else if s.wall.state = .unset then .next (s.answered c .wallUnset none .none)
        else if s.port.state = .draining then .next (s.answered c .cancelled none .noChange)
        else .next (State.fetchStarted
          { s with
            wall := { s.wall with snap := some { unit := u, waitEnd := s.time.mono + (byteAt c.record 6).toNat * 2 ^ 20 } }
            cmd := { s.cmd with state := .idle, snap := some { tag := le16 c.record 2, index := c.index } } })) ∧
  (∀ (s : State) (n : Snap) (d : Deferred), s.time.exhausted = false → s.wall.snap = some n → n.waitEnd = s.time.mono →
      s.cmd.snap = some d →
      exec .waitEnd s = .next (s.writeStarted
        { s with
          wall := { s.wall with snap := none }
          cmd := { s.cmd with snap := none }
          reports := { s.reports with
            records := s.reports.records ++ [.completion
              { tag := d.tag, opcode := 0x0C, ringIndex := d.index, status := .timeout, fieldNo := none,
                results := .noChange }]
            reservations := s.reports.reservations - 1 } }))

/-- A slew step moves the offset by one fine unit towards the target; the step that brings the remainder to 0 ends the
slew and answers the ADJUST_TIME OK with the amount applied (R78, R79, R174). At the instant of a range end no step is taken,
and a forward step that would reach the last FU of the range makes it one: the model takes the range end in place of that
step (R88, log entry 9). -/
def Obligations.SlewStepMovesTheOffset : Prop :=
  ∀ (s : State) (w : Slew), s.time.exhausted = false → s.wall.state = .slewing → s.wall.slew = some w →
    w.nextStep = s.time.mono → w.remainder ≠ 0 →
    let ends := 3155760000 * 2 ^ 20 - 1 ≤ s.wallNow + (if 0 < w.remainder then 1 else 0)
    let sign : Int := if 0 < w.remainder then 1 else -1
    (ends → exec .slewStep s = .next s) ∧
    (¬ ends → w.remainder ≠ sign → exec .slewStep s = .next
      { s with wall := { s.wall with
          offset := s.wall.offset + sign,
          slew := some { delta := w.delta, remainder := w.remainder - sign, applied := w.applied + sign,
                         nextStep := w.nextStep + 1024 } } }) ∧
    (¬ ends → w.remainder = sign → ∀ d, s.cmd.adjust = some d → exec .slewStep s = .next (s.writeStarted
      { s with
        wall := { s.wall with state := .running, offset := s.wall.offset + sign, slew := none }
        cmd := { s.cmd with adjust := none }
        reports := { s.reports with
          records := s.reports.records ++ [.completion
            { tag := d.tag, opcode := 0x0B, ringIndex := d.index, status := .ok, fieldNo := none,
              results := .applied (w.applied + sign) }]
          reservations := s.reports.reservations - 1 } }))

/-- The range end makes the wall UNSET, ends a slew and a pending SNAP with their completions, and takes every wall-bound
slot out of the wall due list and the pattern set, IDLE or FREE; mono-bound slots, the clocks' mono side and the lines are
not touched, and the write of a record accepted into an empty queue starts (R51, R88, R89, R184). It is due when wall time is
at the last FU of the range, and when a forward slew step that falls at this instant would bring it there: that step is not
taken (log entry 9). That nothing is remembered of the second in which wall time lay is the model's choice for a field of its
own (log entry 24). -/
def Obligations.RangeEndUnsetsTheWall : Prop :=
  ∀ (s : State), s.CollectionsSound → s.QueueSound → s.time.exhausted = false → s.wall.state ≠ .unset →
    (3155760000 * 2 ^ 20 - 1 ≤ s.wallNow ∨ 3155760000 * 2 ^ 20 - 1 ≤ s.wallNow + 1 ∧ s.wall.state = .slewing ∧
      ∃ w, s.wall.slew = some w ∧ w.nextStep = s.time.mono ∧ 0 < w.remainder) →
    ∃ t, exec .rangeEnd s = .next (s.writeStarted t) ∧
      t.wall = { state := .unset, offset := 0, slew := none, snap := none, lastSecond := 0 } ∧
      t.sched.wallDue = [] ∧ t.sched.patterns = [] ∧ t.sched.monoDue = s.sched.monoDue ∧ t.sched.waits = s.sched.waits ∧
      t.sched.state = s.sched.state ∧ t.sched.taken = s.sched.taken ∧ t.time = s.time ∧ t.chans = s.chans ∧ t.caps = s.caps ∧
      t.port = s.port ∧ t.reports.write = s.reports.write ∧
      (∀ i, i ∉ s.sched.wallDue → i ∉ s.sched.patterns → t.slot i = s.slot i) ∧
      (∀ i h, (i ∈ s.sched.wallDue ∨ i ∈ s.sched.patterns) → (s.slot i).held = some h →
        t.slot i = if h.action.autoRelease then ⟨(s.slot i).gen + 1, none⟩
          else ⟨(s.slot i).gen, some { h with state := .idle, nextDue := none }⟩) ∧
      (∀ w d, s.wall.slew = some w → s.cmd.adjust = some d →
        .completion { tag := d.tag, opcode := 0x0B, ringIndex := d.index, status := .superseded, fieldNo := none,
                      results := .applied w.applied } ∈ t.reports.records) ∧
      (∀ d, s.cmd.snap = some d →
        .completion { tag := d.tag, opcode := 0x0C, ringIndex := d.index, status := .cancelled, fieldNo := none,
                      results := .noChange } ∈ t.reports.records) ∧
      (s.port.state = .running → 1 ≤ 32 - s.reports.records.length - s.reports.reservations → s.reports.lost = 0 →
        .wallLost (s.sched.wallDue.length + s.sched.patterns.length) (3155760000 * 2 ^ 20 - 1) s.time.mono
          ∈ t.reports.records)

/-! ### The timebase and the reference discipline -/

/-- A fine unit at whose instant nothing remains to be taken: mono time rises by one, and unless it is then at its last
instant the trim is added to the residue, which chooses the length of the next unit (R53, R54). What R36 and R86 remember
of the instant is noted (log entries 3 and 24). -/
def Obligations.FineUnitAdvancesMono : Prop :=
  ∀ (s : State), s.time.exhausted = false → s.outstanding = false →
    let r := s.time.residue + s.time.trim
    exec .fineUnit s = .next
      { s with
        time := if s.time.mono + 1 < 2 ^ 52 - 1 then
            { s.time with
              mono := s.time.mono + 1
              residue := if 2 ^ 26 ≤ r then r - 2 ^ 26 else if r ≤ -2 ^ 26 then r + 2 ^ 26 else r
              unitLength := if 2 ^ 26 ≤ r then 17 else if r ≤ -2 ^ 26 then 15 else 16 }
          else { s.time with mono := s.time.mono + 1 }
        wall := { s.wall with lastSecond := if s.wall.state = .unset then 0 else s.wallNow / 2 ^ 20 }
        sched := { s.sched with taken := [] } }

/-- An edge taken in OFF, and a stray one taken in LOCKED, change nothing; one taken in ACQUIRE or HOLDOVER carries the run
on when it lies in the window and restarts it otherwise, and the lock count locks with the trim as it is and a REFERENCE
report offered. A good edge taken in LOCKED corrects the trim by 16 units for each fine unit of error, clamped to its range,
and sets the expectation a second on; with no SNAP pending nothing else happens (R56 to R61, R63, R66). The edge of the
instant at which the close of a LOCKED window has entered HOLDOVER is stray (R62; the model knows it by a field of its own,
log entry 26). -/
def Obligations.RefEdgeIsJudgedByTheDiscipline : Prop :=
  (∀ (s : State),
      (s.time.disc.state = .off → exec .refEdge s = .next s) ∧
      (s.time.disc.state = .locked → (∀ x, s.time.disc.expect = some x →
          s.time.mono + s.time.disc.window < x ∨ x + s.time.disc.window < s.time.mono) →
        exec .refEdge s = .next s) ∧
      (s.time.disc.state = .holdover → s.time.disc.holdoverAt = some s.time.mono → exec .refEdge s = .next s) ∧
      (s.time.disc.state = .acquire ∨ s.time.disc.state = .holdover ∧ s.time.disc.holdoverAt ≠ some s.time.mono →
        ∀ good lastError,
        ((∀ x, s.time.disc.expect = some x →
            s.time.mono + s.time.disc.window < x ∨ x + s.time.disc.window < s.time.mono) ∧
          good = 1 ∧ lastError = s.time.disc.lastError ∨
         (∃ x, s.time.disc.expect = some x ∧ x ≤ s.time.mono + s.time.disc.window ∧
            s.time.mono ≤ x + s.time.disc.window ∧
            good = s.time.disc.good + 1 ∧ lastError = (s.time.mono : Int) - (x : Int))) →
        let run := { s.time.disc with good := good, lastError := lastError, expect := some (s.time.mono + 2 ^ 20) }
        (good < s.time.disc.lockCount → exec .refEdge s = .next { s with time := { s.time with disc := run } }) ∧
        (s.time.disc.lockCount ≤ good → exec .refEdge s = .next (s.writeStarted
          (offer { s with time := { s.time with disc := { run with state := .locked, miss := 0 } } }
            (.reference { old := s.time.disc.state, new := .locked, trim := s.time.trim, lastError := lastError,
                          instant := s.time.mono })))))) ∧
  (∀ (s : State) (x : Nat), s.time.disc.state = .locked → s.time.disc.expect = some x →
      x ≤ s.time.mono + s.time.disc.window → s.time.mono ≤ x + s.time.disc.window → s.wall.snap = none →
      let e := (s.time.mono : Int) - (x : Int)
      exec .refEdge s = .next
        { s with time := { s.time with
            trim := if s.time.trim + 16 * e < -262144 then -262144
              else if 262144 < s.time.trim + 16 * e then 262144 else s.time.trim + 16 * e
            disc := { s.time.disc with lastError := e, expect := some (s.time.mono + 2 ^ 20), miss := 0 } } })

/-- A good edge taken in LOCKED with a SNAP pending corrects the trim and sets the expectation as any good edge does, and
applies the SNAP: wall time at the edge becomes the nearest whole second or minute, the SNAP_TIME is answered OK with the
change, and a slew in flight is over with a SUPERSEDED completion that carries the amount applied. A RUNNING scheduler takes
what the change makes due if it is forward, and what matches the second it lands on; a change that is not forward makes no
entry due. A rounding beyond the wall range is answered BAD_FIELD and leaves the wall as it was. The write of a record
accepted into an empty queue starts (R47, R48, R56, R60, R63, R73, R81, R84, R87, R100, R184). -/
def Obligations.GoodEdgeAppliesThePendingSnap : Prop :=
  ∀ (s : State) (x : Nat) (n : Snap) (d : Deferred), s.time.disc.state = .locked → s.time.disc.expect = some x →
    x ≤ s.time.mono + s.time.disc.window → s.time.mono ≤ x + s.time.disc.window →
    s.wall.snap = some n → s.cmd.snap = some d → s.wall.state ≠ .unset → s.CollectionsSound →
    let e := (s.time.mono : Int) - (x : Int)
    let time : Timebase := { s.time with
      trim := if s.time.trim + 16 * e < -262144 then -262144
        else if 262144 < s.time.trim + 16 * e then 262144 else s.time.trim + 16 * e
      disc := { s.time.disc with lastError := e, expect := some (s.time.mono + 2 ^ 20), miss := 0 } }
    let rounded := n.unit.round s.wallNow
    let answer (status : Status) (fieldNo : Option Nat) (results : Results) : Report :=
      .completion { tag := d.tag, opcode := 0x0C, ringIndex := d.index, status := status, fieldNo := fieldNo,
                    results := results }
    (3155760000 * 2 ^ 20 - 1 < rounded → exec .refEdge s = .next (s.writeStarted
      { s with
        time := time
        wall := { s.wall with snap := none }
        cmd := { s.cmd with snap := none }
        reports := { s.reports with records := s.reports.records ++ [answer .badField (some 1) .noChange],
                                    reservations := s.reports.reservations - 1 } })) ∧
    (rounded ≤ 3155760000 * 2 ^ 20 - 1 →
      let landing := rounded / 2 ^ 20 ≠ s.wallNow / 2 ^ 20
      ∃ t, exec .refEdge s = .next (s.writeStarted t) ∧ t.time = time ∧ t.port = s.port ∧ t.caps = s.caps ∧
        t.sched.state = s.sched.state ∧ t.reports.write = s.reports.write ∧ t.wallNow = rounded ∧
        t.wall = { s.wall with state := .running, offset := (rounded : Int) - (s.time.mono : Int), slew := none,
                               snap := none, lastSecond := rounded / 2 ^ 20 } ∧
        t.cmd = { s.cmd with adjust := none, snap := none } ∧
        answer .ok none (.wallChanged rounded (some ((rounded : Int) - (s.wallNow : Int)))) ∈ t.reports.records ∧
        (∀ w a, s.wall.slew = some w → s.cmd.adjust = some a →
          .completion { tag := a.tag, opcode := 0x0B, ringIndex := a.index, status := .superseded, fieldNo := none,
                        results := .applied w.applied } ∈ t.reports.records) ∧
        t.reports.reservations = s.reports.reservations -
          (if s.wall.slew.isSome = true ∧ s.cmd.adjust.isSome = true then 2 else 1) ∧
        (s.sched.state = .running → s.wallNow < rounded → s.tookWhatIsDue t rounded) ∧
        (s.sched.state = .running → s.sched.found = [] → landing → s.tookMatches t (rounded / 2 ^ 20)) ∧
        ((s.sched.state ≠ .running ∨ rounded ≤ s.wallNow ∧ (landing → ∀ i ∈ s.sched.patterns, ∀ h,
            (s.slot i).held = some h → h.matches (rounded / 2 ^ 20) = false)) →
          t.slots = s.slots ∧ t.sched = s.sched ∧ t.chans = s.chans))

/-- The close of a window: ACQUIRE loses its expectation, LOCKED counts a miss and at the miss limit enters HOLDOVER with
a REFERENCE report offered, HOLDOVER loses its run; a window that is not at its close is left alone (R57, R59 to R61,
R66). The instant of an entry into HOLDOVER is noted in a field of the model's own (log entry 26). -/
def Obligations.WindowCloseCountsTheMiss : Prop :=
  ∀ (s : State) (x : Nat), s.time.exhausted = false → s.time.disc.expect = some x →
    (s.time.mono ≠ x + s.time.disc.window + 1 → exec .windowClose s = .next s) ∧
    (s.time.mono = x + s.time.disc.window + 1 →
      (s.time.disc.state = .acquire → exec .windowClose s = .next
        { s with time := { s.time with disc := { s.time.disc with expect := none, good := 0 } } }) ∧
      (s.time.disc.state = .holdover → exec .windowClose s = .next
        { s with time := { s.time with disc := { s.time.disc with expect := some (x + 2 ^ 20), good := 0 } } }) ∧
      (s.time.disc.state = .locked → s.time.disc.miss + 1 < s.time.disc.missLimit → exec .windowClose s = .next
        { s with time := { s.time with disc :=
            { s.time.disc with expect := some (x + 2 ^ 20), miss := s.time.disc.miss + 1 } } }) ∧
      (s.time.disc.state = .locked → s.time.disc.missLimit ≤ s.time.disc.miss + 1 →
        exec .windowClose s = .next (s.writeStarted (offer { s with time := { s.time with disc :=
            { s.time.disc with state := .holdover, expect := some (x + 2 ^ 20), miss := s.time.disc.miss + 1, good := 0,
                               holdoverAt := some s.time.mono } } }
          (.reference { old := .locked, new := .holdover, trim := s.time.trim, lastError := s.time.disc.lastError,
                        instant := s.time.mono })))))

/-- An edge at the very instant at which the window it just misses closes: the two orders end in the same state of the
whole part, whatever the discipline's state, counts and limits (R62). -/
def Obligations.EdgeAndCloseCommute : Prop :=
  ∀ (s : State) (x : Nat), s.time.exhausted = false → s.time.Sound → s.time.disc.state ≠ .off →
    s.time.disc.expect = some x → s.time.mono = x + s.time.disc.window + 1 →
    ∃ u v t, exec .windowClose s = .next u ∧ exec .refEdge u = .next t ∧
      exec .refEdge s = .next v ∧ exec .windowClose v = .next t

/-- CONFIG_REFERENCE: the first invalid field is answered and nothing else happens; a valid command stores the
configuration, restarts or stops the discipline, sets the trim it carries, cancels a pending SNAP, answers the states and
the trim, and offers a REFERENCE report when the state changes (R64 to R66, R180). -/
def Obligations.ConfigReferenceRestartsAcquisition : Prop :=
  ∀ (s : State) (c : InHand), s.holds c 0x0D →
    let mode := (byteAt c.record 4).toNat
    let window := (le16 c.record 6).toNat
    let lockCount := (byteAt c.record 8).toNat
    let missLimit := (byteAt c.record 9).toNat
    let trim := (le32 c.record 12).toInt
    let absent := le32 c.record 12 = 0x80000000
    (1 < mode → exec .configReference s = .next (s.answered c .badField (some 1) .none)) ∧
    (mode ≤ 1 → window < 16 → exec .configReference s = .next (s.answered c .badField (some 2) .none)) ∧
    (mode ≤ 1 → 16 ≤ window → (lockCount = 0 ∨ 15 < lockCount) →
      exec .configReference s = .next (s.answered c .badField (some 3) .none)) ∧
    (mode ≤ 1 → 16 ≤ window → 1 ≤ lockCount → lockCount ≤ 15 → (missLimit = 0 ∨ 15 < missLimit) →
      exec .configReference s = .next (s.answered c .badField (some 4) .none)) ∧
    (mode ≤ 1 → 16 ≤ window → 1 ≤ lockCount → lockCount ≤ 15 → 1 ≤ missLimit → missLimit ≤ 15 →
      ¬ absent → (trim < -262144 ∨ 262144 < trim) →
      exec .configReference s = .next (s.answered c .badField (some 5) .none)) ∧
    (mode ≤ 1 → 16 ≤ window → 1 ≤ lockCount → lockCount ≤ 15 → 1 ≤ missLimit → missLimit ≤ 15 →
      (absent ∨ -262144 ≤ trim ∧ trim ≤ 262144) →
      let set : DiscState := if mode = 1 then .acquire else .off
      let time : Timebase :=
        { s.time with
          trim := if absent then s.time.trim else trim
          disc := { state := set, window := window, lockCount := lockCount, missLimit := missLimit, expect := none,
                    good := 0, miss := 0, lastError := 0, holdoverAt := none } }
      let answer := c.answer .ok none (.reference s.time.disc.state set time.trim)
      let cancelled : List Report := match s.wall.snap, s.cmd.snap with
        | some _, some d => [.completion { tag := d.tag, opcode := 0x0C, ringIndex := d.index, status := .cancelled,
                                           fieldNo := none, results := .noChange }]
        | _, _ => []
      (∃ t, exec .configReference s = .next (s.concluded t) ∧ t.time = time ∧ t.wall = { s.wall with snap := none } ∧
        t.cmd = { s.cmd with state := .idle, snap := none } ∧ t.slots = s.slots ∧ t.sched = s.sched ∧
        t.chans = s.chans ∧ t.caps = s.caps ∧ t.port = s.port ∧ t.reports.write = s.reports.write ∧
        answer ∈ t.reports.records ∧ (∀ r ∈ cancelled, r ∈ t.reports.records) ∧
        (s.time.disc.state ≠ set → s.port.state = .running → s.reports.lost = 0 →
          s.reports.records.length + s.reports.reservations < 32 →
          s.gains t (.reference { old := s.time.disc.state, new := set, trim := time.trim, lastError := 0,
                                  instant := s.time.mono } :: cancelled ++ [answer]) (1 + cancelled.length))) ∧
      (s.wall.snap = none → s.cmd.snap = none → s.time.disc.state = set →
        exec .configReference s = .next
          ({ s with time := time }.answered c .ok none (.reference set set time.trim))))

/-- At its last instant mono time is exhausted: it stands still from then on, and the port halts with TIMELINE_END unless
it is HALTED already (R55, R156). -/
def Obligations.ExhaustionHaltsThePort : Prop :=
  ∀ (s : State), s.time.exhausted = false → s.time.mono = 2 ^ 52 - 1 →
    ∃ t, exec .monoExhaustion s = .next t ∧ t.time = { s.time with exhausted := true } ∧
      exec .fineUnit t = .next t ∧
      (s.port.state ≠ .halted → { s with time := t.time }.haltedAs t .timelineEnd 0) ∧
      (s.port.state = .halted → t = { s with time := t.time })

/-! ### The output channels -/

/-- CONFIG_CHANNEL: the first invalid field is answered; a valid command enables, re-levels or disables the channel as
the table of R127 says, stores the parked level in every case, and answers the state found, the instances ended and the
levels. Where it disables a channel its instances end without one starting, and with room their DONE reports and the
completion join the queue in an order that is left open (R107, R123, R127, R167). -/
def Obligations.ConfigChannelFollowsItsTable : Prop :=
  ∀ (s : State) (c : InHand), s.holds c 0x0E →
    (8 ≤ (byteAt c.record 4).toNat → exec .configChannel s = .next (s.answered c .badField (some 1) .none)) ∧
    ∀ ch : Fin 8, ch.val = (byteAt c.record 4).toNat →
    (1 < (byteAt c.record 5).toNat → exec .configChannel s = .next (s.answered c .badField (some 2) .none)) ∧
    ((byteAt c.record 5).toNat ≤ 1 → 1 < (byteAt c.record 6).toNat →
      exec .configChannel s = .next (s.answered c .badField (some 3) .none)) ∧
    ((byteAt c.record 5).toNat ≤ 1 → (byteAt c.record 6).toNat ≤ 1 → 1 < (byteAt c.record 7).toNat →
      exec .configChannel s = .next (s.answered c .badField (some 4) .none)) ∧
    ((byteAt c.record 6).toNat ≤ 1 → (byteAt c.record 7).toNat ≤ 1 →
      let found := s.chan ch
      let initial : Level := if byteAt c.record 6 = 1 then .high else .low
      let parked : Level := if byteAt c.record 7 = 1 then .high else .low
      (byteAt c.record 5 = 1 → found.state = .disabled ∨ found.state = .idle → exec .configChannel s = .next
        ((s.withChan ch { found with state := .idle, level := initial, parked := parked }).answered c .ok none
          (.channelSet found.state 0 0 initial initial))) ∧
      (byteAt c.record 5 = 1 → found.state = .pulse ∨ found.state = .space → exec .configChannel s = .next
        ((s.withChan ch { found with parked := parked }).answered c .busy none
          (.channelSet found.state 0 0 found.level (if found.state = .pulse then found.level.flip else found.level)))) ∧
      (byteAt c.record 5 = 0 →
        let answer := c.answer .ok none
          (.channelSet found.state (if found.running.isSome then 1 else 0) found.queue.length parked parked)
        ∃ t, exec .configChannel s = .next (s.concluded t) ∧ s.keepsAllBut t ch ∧ t.cmd = { s.cmd with state := .idle } ∧
          t.chan ch = { state := .disabled, level := parked, parked := parked, running := none, queue := [] } ∧
          answer ∈ t.reports.records ∧ t.reports.reservations = s.reports.reservations - 1 ∧
          (s.port.state = .running → s.reports.lost = 0 →
            s.reports.records.length + s.reports.reservations + 9 ≤ 32 → found.queue.length ≤ 8 →
            s.gains t ((found.clearReports ch s.time.mono).map .done ++ [answer]) 1)))

/-- FLUSH_CHANNEL ends every instance of its channel without starting one, leaves the levels and a DISABLED channel as
they are, and answers how many it ended; CHANNEL_STATUS answers the channel as it stands and changes nothing; a channel
number of 8 or more is answered BAD_FIELD by either (R108, R123, R128, R129). -/
def Obligations.FlushClearsAndStatusReadsTheChannel : Prop :=
  ∀ (s : State) (c : InHand),
    (8 ≤ (byteAt c.record 4).toNat →
      (s.holds c 0x0F → exec .flushChannel s = .next (s.answered c .badField (some 1) .none)) ∧
      (s.holds c 0x10 → exec .channelStatus s = .next (s.answered c .badField (some 1) .none))) ∧
    ∀ ch : Fin 8, ch.val = (byteAt c.record 4).toNat →
      let found := s.chan ch
      (s.holds c 0x0F →
        let answer := c.answer .ok none (.channelFlushed (if found.running.isSome then 1 else 0) found.queue.length)
        ∃ t, exec .flushChannel s = .next (s.concluded t) ∧ s.keepsAllBut t ch ∧ t.cmd = { s.cmd with state := .idle } ∧
          t.chan ch = (if found.state = .disabled then found
            else { found with state := .idle, running := none, queue := [] }) ∧
          answer ∈ t.reports.records ∧ t.reports.reservations = s.reports.reservations - 1 ∧
          (s.port.state = .running → s.reports.lost = 0 →
            s.reports.records.length + s.reports.reservations + 9 ≤ 32 → found.queue.length ≤ 8 →
            s.gains t ((found.clearReports ch s.time.mono).map .done ++ [answer]) 1)) ∧
      (s.holds c 0x10 → exec .channelStatus s = .next (s.answered c .ok none (.channelRead
        { enabled := decide (found.state ≠ .disabled)
          state := found.state
          level := found.level
          parked := found.parked
          line := match found.state with
            | .disabled => found.parked
            | .idle | .space => found.level
            | .pulse => found.level.flip
          running := found.running.map fun r => r.inst.handle
          waiting := found.queue.map fun i => i.handle })))

/-- A phase end moves a train from pulse to space and from space to its next pulse, and completes it after its last
space, as it completes a level operation at once. A completed instance without a follow-on offers its DONE report when
its done reports are on, and the front of the queue starts at the same instant, or the channel enters IDLE (R115 to R118,
R125, R184). One with a follow-on is CompletionArmsTheFollowOn. -/
def Obligations.PhaseEndsRunTheInstance : Prop :=
  ∀ (s : State) (ch : Fin 8) (r : Running), s.time.exhausted = false → (s.chan ch).running = some r →
    r.phaseEnd = s.time.mono →
    let found := s.chan ch
    (∀ p sp n, r.inst.operation = some (.train p sp n) →
      (found.state = .pulse → exec (.phaseEnd ch) s = .next
        (s.withChan ch { found with state := .space, running := some { r with phaseEnd := s.time.mono + sp } })) ∧
      (found.state = .space → r.pulses < n → exec (.phaseEnd ch) s = .next
        (s.withChan ch
          { found with state := .pulse,
                       running := some { r with pulses := r.pulses + 1, phaseEnd := s.time.mono + p } }))) ∧
    (((∀ p sp n, r.inst.operation ≠ some (.train p sp n)) ∨
        ∃ p sp n, r.inst.operation = some (.train p sp n) ∧ found.state = .space ∧ n ≤ r.pulses) →
      r.inst.followOn = none →
      let told := if r.inst.doneReports then
          offer s (.done { handle := r.inst.handle, tag := r.inst.tag, channel := some ch, reason := .completed,
                           start := some r.start, ending := s.time.mono, pulses := r.pulses, followOn := .none })
        else s
      ∃ next, found.succeededBy s.time.mono next ∧
        exec (.phaseEnd ch) s = .next (s.writeStarted (told.withChan ch next)))

/-- The follow-on request of a completed level operation or train, whatever waits on the channel: after the request and its
DONE report the front of the waiting queue starts at the same instant, or the channel enters IDLE (R118, steps 1 to 3). An
IDLE action with an AFTER trigger is armed with the completion instant plus its delay as its due, which EXPIRY takes at that
same instant when the delay is 0 (log entry 7); a handle that is not live, an action that is not IDLE, and one without an
AFTER trigger leave the table as it was, and the failure is reported whatever the instance's done reports say (R20, R118,
R125, R126, R184). -/
def Obligations.CompletionArmsTheFollowOn : Prop :=
  ∀ (s : State) (ch : Fin 8) (r : Running) (target : Handle), s.time.exhausted = false →
    (s.chan ch).running = some r → r.phaseEnd = s.time.mono →
    ((∀ p sp n, r.inst.operation ≠ some (.train p sp n)) ∨
      ∃ p sp n, r.inst.operation = some (.train p sp n) ∧ (s.chan ch).state = .space ∧ n ≤ r.pulses) →
    r.inst.followOn = some target →
    ∃ next, (s.chan ch).succeededBy s.time.mono next ∧
      let ends (t : State) : Prop := exec (.phaseEnd ch) s = .next (s.writeStarted (t.withChan ch next))
      let report (outcome : FollowOutcome) : Report :=
        .done { handle := r.inst.handle, tag := r.inst.tag, channel := some ch, reason := .completed,
                start := some r.start, ending := s.time.mono, pulses := r.pulses, followOn := outcome }
      (((s.slot target.slot).held = none ∨ (s.slot target.slot).gen ≠ target.gen) → ends (offer s (report .stale))) ∧
      ∀ h, (s.slot target.slot).held = some h → (s.slot target.slot).gen = target.gen →
        (h.state ≠ .idle → ends (offer s (report .notIdle))) ∧
        (h.state = .idle → (∀ delay, h.action.trigger ≠ .after delay) → ends (offer s (report .notAfter))) ∧
        (∀ delay, h.state = .idle → h.action.trigger = .after delay →
          let due := s.time.mono + delay
          let armed := { s with sched := { s.sched with monoDue := s.joined target.slot due s.sched.monoDue } }.withSlot
            target.slot { gen := target.gen, held := some (h.action.begun .pending (some ⟨.mono, due⟩)) }
          ends (if r.inst.doneReports then offer armed (report .armed) else armed))

/-! ### The capture inputs -/

/-- CONFIG_CAPTURE: the first invalid field is answered; a valid command stores the configuration, starts the edge count
and the last edge anew, restarts the filter from the line level, leaves the wait set alone, and answers what it found.
CAPTURE_STATUS answers the input as it stands and changes nothing (R145, R146). That the line level it answers is the one
before a transition of the same mono instant that is taken after it is the model's choice (log entry 30). -/
def Obligations.CaptureCommandsConfigureAndRead : Prop :=
  ∀ (s : State) (c : InHand),
    (4 ≤ (byteAt c.record 4).toNat →
      (s.holds c 0x11 → exec .configCapture s = .next (s.answered c .badField (some 1) .none)) ∧
      (s.holds c 0x12 → exec .captureStatus s = .next (s.answered c .badField (some 1) .none))) ∧
    ∀ k : Fin 4, k.val = (byteAt c.record 4).toNat →
      let found := s.cap k
      (s.holds c 0x12 → exec .captureStatus s = .next
        (s.answered c .ok none (.captureRead found.line found.count found.last (s.sched.waits[k.val]).length))) ∧
      (s.holds c 0x11 →
        (1 < (byteAt c.record 5).toNat → exec .configCapture s = .next (s.answered c .badField (some 2) .none)) ∧
        ((byteAt c.record 5).toNat ≤ 1 → 2 < (byteAt c.record 6).toNat →
          exec .configCapture s = .next (s.answered c .badField (some 3) .none)) ∧
        ((byteAt c.record 5).toNat ≤ 1 → (byteAt c.record 6).toNat ≤ 2 → 1023 < (le16 c.record 8).toNat →
          exec .configCapture s = .next (s.answered c .badField (some 4) .none)) ∧
        ((byteAt c.record 5).toNat ≤ 1 → (byteAt c.record 6).toNat ≤ 2 → (le16 c.record 8).toNat ≤ 1023 →
          1 < (byteAt c.record 10).toNat → exec .configCapture s = .next (s.answered c .badField (some 5) .none)) ∧
        ((byteAt c.record 5).toNat ≤ 1 → (le16 c.record 8).toNat ≤ 1023 → (byteAt c.record 10).toNat ≤ 1 →
          ∀ select, (byteAt c.record 6 = 0 ∧ select = .rising ∨ byteAt c.record 6 = 1 ∧ select = .falling ∨
              byteAt c.record 6 = 2 ∧ select = .both) →
            exec .configCapture s = .next
              ((s.withCap k
                { on := decide (byteAt c.record 5 = 1)
                  select := select
                  filter := (le16 c.record 8).toNat
                  report := decide (byteAt c.record 10 = 1)
                  line := found.line
                  filtered := found.line
                  candidate := none
                  count := 0
                  last := none
                  movedAt := found.movedAt }).answered c .ok none
                (.captureSet found.on found.line found.count found.last))))

/-- A transition moves the line level; while the mode is ON it becomes the candidate, or cancels the one there is; with
filter time 0 it is accepted in the same event, as an acceptance at that instant would be. The line is sampled once per fine
unit, so a second transition at one mono instant does not arise; the model knows it by a field of its own and changes nothing
(R134, R135, log entry 21). -/
def Obligations.TransitionFeedsTheFilter : Prop :=
  ∀ (s : State) (k : Fin 4), s.time.exhausted = false →
    let found := s.cap k
    let moved : Capture := { found with line := found.line.flip, movedAt := some s.time.mono }
    (found.movedAt = some s.time.mono → exec (.transition k) s = .next s) ∧
    (found.movedAt ≠ some s.time.mono →
      (found.on = false → exec (.transition k) s = .next (s.withCap k moved)) ∧
      (found.on = true → found.candidate ≠ none →
        exec (.transition k) s = .next (s.withCap k { moved with candidate := none })) ∧
      (found.on = true → found.candidate = none → found.line = found.filtered →
        let seen : Capture :=
          { moved with candidate := some { level := found.line.flip, instant := s.time.mono,
                                           acceptAt := s.time.mono + found.filter } }
        (0 < found.filter → exec (.transition k) s = .next (s.withCap k seen)) ∧
        (found.filter = 0 → exec (.transition k) s = exec (.acceptance k) (s.withCap k seen))))

/-- An acceptance makes the candidate's level the filtered level. When its polarity is selected the edge is counted and
recorded with its transition instant, reported when the report flag is on and the port is not HALTED, and handed to the
scheduler, which unless it is HALTED makes every slot of the wait set PENDING at the edge instant plus its delay, the
former entries of the mono due list keeping their order. A due already reached is taken by an EXPIRY of the same mono instant
(R135 to R138, R140, R141, R144, log entry 7), and the write of a record accepted into an empty queue starts (R184). -/
def Obligations.AcceptedEdgeConvertsTheWaitSet : Prop :=
  ∀ (s : State) (k : Fin 4) (x : Candidate), s.time.exhausted = false → (s.cap k).on = true →
    (s.cap k).candidate = some x → x.acceptAt = s.time.mono →
    let found := s.cap k
    let selected := found.select = .both ∨ found.select = .rising ∧ x.level = .high ∨
      found.select = .falling ∧ x.level = .low
    let polarity : Polarity := if x.level = .high then .rising else .falling
    let number := (found.count + 1) % 2 ^ 32
    let after : Capture := { found with filtered := x.level, candidate := none, count := number,
                                        last := some { instant := x.instant, polarity := polarity } }
    let wall := (x.instant : Int) + s.wall.offset
    let told := if found.report = true ∧ s.port.state ≠ .halted then
        offer (s.withCap k after) (.capture
          { input := k, polarity := polarity, instant := x.instant,
            wall := if s.wall.state ≠ .unset ∧ 0 ≤ wall then some wall.toNat else none, number := number })
      else s.withCap k after
    (¬ selected →
      exec (.acceptance k) s = .next (s.withCap k { found with filtered := x.level, candidate := none })) ∧
    (selected → (s.sched.state = .halted ∨ s.sched.waits[k.val] = []) →
      exec (.acceptance k) s = .next (s.writeStarted told)) ∧
    (selected → s.sched.state ≠ .halted → s.CollectionsSound →
      ∃ t, exec (.acceptance k) s = .next (s.writeStarted t) ∧ t.reports = told.reports ∧ t.irq = told.irq ∧
        t.caps = told.caps ∧ t.chans = s.chans ∧ t.time = s.time ∧ t.wall = s.wall ∧ t.port = s.port ∧ t.cmd = s.cmd ∧
        t.sched.state = s.sched.state ∧ t.sched.wallDue = s.sched.wallDue ∧ t.sched.patterns = s.sched.patterns ∧
        t.sched.taken = s.sched.taken ∧ t.sched.found = s.sched.found ∧ t.sched.waits = s.sched.waits.set k.val [] ∧
        t.sched.monoDue.filter (fun j => decide (j ∈ s.sched.monoDue)) = s.sched.monoDue ∧
        (∀ i, i ∉ s.sched.waits[k.val] → t.slot i = s.slot i) ∧
        ∀ i ∈ s.sched.waits[k.val], i ∈ t.sched.monoDue ∧
          ∀ h delay rearm, (s.slot i).held = some h → h.action.trigger = .onCapture k delay rearm →
            t.slot i = ⟨(s.slot i).gen, some
              { h with
                state := .pending
                nextDue := some ⟨.mono, x.instant + delay⟩
                remaining := match rearm with
                  | .once => h.remaining
                  | .everyEdge => if h.action.count = 0 then .unlimited else .limited h.action.count }⟩)

/-! ### The report queue and the interrupt unit -/

/-- The offer of an event report: accepted at the end of the queue while the port is RUNNING and the margin is 1 or more,
behind an OVERFLOW report when reports have been lost, and dropped and counted otherwise, LOSS being set when the lost
count passes from 0 to 1 (R180, R182, R183, R187). -/
def Obligations.OfferFollowsTheMargin : Prop :=
  ∀ (s : State) (r : Report),
    let margin := 32 - s.reports.records.length - s.reports.reservations
    let loss : Irq := { s.irq with status := { s.irq.status with loss := true } }
    ((s.port.state ≠ .running ∨ margin = 0) → offer s r =
      { s with
        reports := { s.reports with lost := min 65535 (s.reports.lost + 1) }
        irq := if s.reports.lost = 0 then loss else s.irq }) ∧
    (s.port.state = .running → 1 ≤ margin → s.reports.lost = 0 → offer s r =
      { s with reports := { s.reports with records := s.reports.records ++ [r] } }) ∧
    (s.port.state = .running → 2 ≤ margin → 0 < s.reports.lost → offer s r =
      { s with reports :=
          { s.reports with records := s.reports.records ++ [.overflow s.reports.lost s.time.mono, r], lost := 0 } }) ∧
    (s.port.state = .running → margin = 1 → 0 < s.reports.lost → offer s r =
      { s with
        reports :=
          { s.reports with records := s.reports.records ++ [.overflow s.reports.lost s.time.mono], lost := 1 }
        irq := loss })

/-- The 32 bytes of every report record, as the tables of chapter 11 lay them out: the kind in byte 0, the phase in bit 0 of
byte 1, the fields of each event report (table 11.5), a completion's opcode, status, tag, ring index, field number and
results (table 11.6), the codes of table 11.1, and 0 in every bit that the kind does not name (R169, R192, R197). At most
eight instances wait on a channel (R109). What three fields hold where another bit says that they are absent is the model's
choice (log entry 27). By the model's reading an ARM with an absent due has every bit of bytes 16 to 23 set and the clock bit
of byte 11 clear (log entry 13), byte 10 of an OK RELEASE and the results that no rule names are 0 (log entry 14), and the
remaining field of an unlimited QUERY_ACTION is 0 (log entry 15). -/
def Obligations.ReportRecordsCarryKindPhaseAndCommonFields : Prop :=
  ∀ (r : Report) (phase : Bool),
    (∀ c q waiting running, r = .completion c → c.results = .queried q → q.counts = some (waiting, running) → waiting ≤ 8) →
    (∀ c q, r = .completion c → c.results = .channelRead q → q.waiting.length ≤ 8) →
    r.bytes phase = r.layout phase

/-- The writes to the interrupt registers, each taken in every port state, and the moderation expiry. INT_STATUS clears
the bits written as 1, and clearing REPORTS restarts the moderation; INT_ENABLE is stored as written; INT_MODERATION is
stored and the count and start in progress judged anew; the line is high exactly while an enabled bit is set (R187 to
R190). -/
def Obligations.InterruptRegistersAreWritten : Prop :=
  ∀ (s : State) (v : Word),
    exec (.intStatusWrite v) s = .next
      { s with irq := { s.irq with
          status := { reports := s.irq.status.reports && !v.getLsbD 0, loss := s.irq.status.loss && !v.getLsbD 1,
                      fault := s.irq.status.fault && !v.getLsbD 2 }
          count := if v.getLsbD 0 then 0 else s.irq.count
          start := if v.getLsbD 0 then none else s.irq.start } } ∧
    exec (.intEnableWrite v) s = .next
      { s with irq := { s.irq with
          enable := { reports := v.getLsbD 0, loss := v.getLsbD 1, fault := v.getLsbD 2 } } } ∧
    (let stored : Irq := { s.irq with threshold := BitVec.ofNat 8 v.toNat, time := BitVec.ofNat 16 (v.toNat / 2 ^ 16) }
     let reached := max 1 (v.toNat % 256) ≤ s.irq.count ∨
       ∃ start, s.irq.start = some start ∧ v.toNat / 2 ^ 16 ≠ 0 ∧ start + v.toNat / 2 ^ 16 * 1024 ≤ s.time.mono
     ((s.irq.status.reports = true ∨ ¬ reached) → exec (.intModerationWrite v) s = .next { s with irq := stored }) ∧
     (s.irq.status.reports = false → reached → exec (.intModerationWrite v) s = .next
       { s with irq := { stored with status := { s.irq.status with reports := true }, start := none } })) ∧
    (s.time.exhausted = false → s.irq.status.reports = false → ∀ start, s.irq.start = some start →
      s.irq.time ≠ 0 → start + s.irq.time.toNat * 1024 ≤ s.time.mono →
      exec .moderationExpiry s = .next
        { s with irq := { s.irq with status := { s.irq.status with reports := true }, start := none } }) ∧
    (s.irq.line = .high ↔ (s.irq.status.reports = true ∧ s.irq.enable.reports = true) ∨
      (s.irq.status.loss = true ∧ s.irq.enable.loss = true) ∨ (s.irq.status.fault = true ∧ s.irq.enable.fault = true))

/-! ### The host port -/

/-- A fetch starts when every condition of R160 holds, with its reservation, and not otherwise. Its end hands the record
to the command unit and advances CR_HEAD; with a bus error it halts the port with the record's address; while DRAINING it
is discarded, its reservation is given back and the drain is checked; the end of an abandoned fetch has no effect (R155
to R157, R160, R161, R166, R181). -/
def Obligations.FetchesStartAndEnd : Prop :=
  ∀ (s : State),
    let ready := s.port.state = .running ∧ s.port.crHead ≠ s.port.crTail ∧ s.cmd.state = .idle ∧ s.port.fetch = none ∧
      s.reports.records.length + s.reports.reservations < 32
    let address := s.port.crBase + BitVec.ofNat 32 (32 * s.port.crHead)
    (ready → exec .fetchStart s = .next
      { s with
        port := { s.port with fetch := some address }
        reports := { s.reports with reservations := s.reports.reservations + 1 } }) ∧
    (¬ ready → exec .fetchStart s = .next s) ∧
    (s.port.fetch = none → ∀ ending, exec (.fetchEnd ending) s = .next s) ∧
    (s.port.fetch ≠ none →
      (s.port.state = .running → ∀ r, exec (.fetchEnd (.data r)) s = .next
        { s with
          port := { s.port with crHead := (s.port.crHead + 1) % s.port.crSize.toNat, fetch := none }
          cmd := { s.cmd with state := .holding { record := r, index := s.port.crHead } } }) ∧
      (s.port.state = .running → ∃ t, exec (.fetchEnd .error) s = .next t ∧ s.haltedAs t .fetchError address) ∧
      (s.port.state = .draining → ∀ ending, exec (.fetchEnd ending) s = .next
        { s with
          port := { s.port with
            state := if s.reports.records = [] ∧ s.reports.reservations ≤ 1 then .disabled else .draining
            fetch := none }
          reports := { s.reports with reservations := s.reports.reservations - 1 } }))

/-- The write of the front record starts when every condition of R184 holds, with the record's bytes and the present phase,
and not otherwise. Its end takes the record out of the queue, advances RR_TAIL, flips the phase at its wrap, counts the
record for moderation, starts the next write and a fetch whose conditions then hold, and completes a drain; with a bus error
it halts the port with the entry's address; the end of an abandoned write has no effect (R155 to R157, R184, R185, R189). -/
def Obligations.ReportWritesStartAndEnd : Prop :=
  ∀ (s : State), (s.port.state = .running ∨ s.port.state = .draining) →
    let address := s.port.rrBase + BitVec.ofNat 32 (32 * s.port.rrTail)
    let tail := (s.port.rrTail + 1) % s.port.rrSize.toNat
    ((s.reports.records = [] ∨ s.reports.write ≠ none ∨ tail = s.port.rrHead) →
      exec .reportWriteStart s = .next s) ∧
    (s.reports.write = none → ∀ busError, exec (.reportWriteEnd busError) s = .next s) ∧
    (s.reports.write ≠ none →
      ∃ t, exec (.reportWriteEnd true) s = .next t ∧ s.haltedAs t .reportWriteError address) ∧
    ∀ front rest, s.reports.records = front :: rest →
      (s.reports.write = none → tail ≠ s.port.rrHead → exec .reportWriteStart s = .next
        { s with reports :=
          { s.reports with write := some ⟨address, s.port.rrTail, s.port.phase, front.bytes s.port.phase⟩ } }) ∧
      (s.reports.write ≠ none →
        let port := { s.port with rrTail := tail, phase := if tail = 0 then !s.port.phase else s.port.phase }
        let fetches := s.port.state = .running ∧ s.port.crHead ≠ s.port.crTail ∧ s.cmd.state = .idle ∧
          s.port.fetch = none ∧ rest.length + s.reports.reservations < 32
        let drained := s.port.state = .draining ∧ rest = [] ∧ s.reports.reservations = 0 ∧ s.port.fetch = none
        let irq : Irq := if s.irq.status.reports then s.irq
          else if max 1 s.irq.threshold.toNat ≤ s.irq.count + 1 then
            { s.irq with status := { s.irq.status with reports := true }, count := s.irq.count + 1, start := none }
          else { s.irq with count := s.irq.count + 1, start := some (s.irq.start.getD s.time.mono) }
        let following : Option ReportWrite := match rest with
          | next :: _ =>
            if (tail + 1) % s.port.rrSize.toNat = s.port.rrHead then none
            else some ⟨s.port.rrBase + BitVec.ofNat 32 (32 * tail), tail, port.phase, next.bytes port.phase⟩
          | [] => none
        let written := { s with port := port, reports := { s.reports with records := rest, write := following }, irq := irq }
        (fetches → exec (.reportWriteEnd false) s = .next
          { written with
            port := { port with fetch := some (s.port.crBase + BitVec.ofNat 32 (32 * s.port.crHead)) }
            reports := { written.reports with reservations := s.reports.reservations + 1 } }) ∧
        (drained → exec (.reportWriteEnd false) s = .next { written with port := { port with state := .disabled } }) ∧
        (¬ fetches → ¬ drained → exec (.reportWriteEnd false) s = .next written))

/-- ENABLE written as 1 in DISABLED validates the two rings in the order of R152 and enters RUNNING with the indices at 0
and the phase at 1, or names the first register that fails, or, with mono time exhausted, halts the port. ENABLE written
as 0 in RUNNING enters DRAINING, answers a slew and a pending SNAP with CANCELLED, and enters DISABLED at once when
nothing is outstanding; it starts no fetch, and the write of a record accepted into an empty queue. Each has no effect in the
other port states (R90, R149, R150, R152, R154 to R156, R184). -/
def Obligations.EnableWritesMoveThePort : Prop :=
  ∀ (s : State),
    let sized (base size : Word) := (∃ k, 4 ≤ k ∧ k ≤ 12 ∧ size.toNat = 2 ^ k) ∧ base.toNat + 32 * size.toNat ≤ 2 ^ 32
    let crBase := s.port.crBase.toNat % 64 = 0
    let rrBase := s.port.rrBase.toNat % 64 = 0
    let crSize := sized s.port.crBase s.port.crSize
    let rrSize := sized s.port.rrBase s.port.rrSize
    let names (e : ConfigError) := exec .enableWrite1 s = .next { s with port := { s.port with configError := e } }
    let cleared : Port :=
      { s.port with configError := .none, crHead := 0, crTail := 0, rrHead := 0, rrTail := 0, phase := true }
    (s.port.state ≠ .disabled → exec .enableWrite1 s = .next s) ∧
    (s.port.state = .disabled →
      (¬ crBase → names .crBase) ∧ (crBase → ¬ crSize → names .crSize) ∧ (crBase → crSize → ¬ rrBase → names .rrBase) ∧
      (crBase → crSize → rrBase → ¬ rrSize → names .rrSize) ∧
      (crBase → crSize → rrBase → rrSize → s.time.exhausted = false →
        exec .enableWrite1 s = .next { s with port := { cleared with state := .running } }) ∧
      (crBase → crSize → rrBase → rrSize → s.time.exhausted = true →
        ∃ t, exec .enableWrite1 s = .next t ∧ { s with port := cleared }.haltedAs t .timelineEnd 0)) ∧
    (s.port.state ≠ .running → exec .enableWrite0 s = .next s) ∧
    (s.port.state = .running → s.QueueSound →
      ∃ t, exec .enableWrite0 s = .next
          (if t.reports.records = [] ∧ t.reports.reservations = 0 ∧ s.port.fetch = none then
            { t with port := { t.port with state := .disabled } } else s.writeStarted t) ∧
        t.slots = s.slots ∧ t.sched = s.sched ∧ t.chans = s.chans ∧ t.caps = s.caps ∧ t.time = s.time ∧ t.irq = s.irq ∧
        t.wall = { s.wall with state := if s.wall.state = .slewing then .running else s.wall.state,
                               slew := none, snap := none } ∧
        t.cmd = { s.cmd with adjust := none, snap := none } ∧ t.port = { s.port with state := .draining } ∧
        t.reports.write = s.reports.write ∧ t.reports.lost = s.reports.lost ∧
        s.gains t
          ((match s.wall.slew, s.cmd.adjust with
            | some w, some d => [.completion { tag := d.tag, opcode := 0x0B, ringIndex := d.index, status := .cancelled,
                                               fieldNo := none, results := .applied w.applied }]
            | _, _ => []) ++
           (match s.cmd.snap with
            | some d => [.completion { tag := d.tag, opcode := 0x0C, ringIndex := d.index, status := .cancelled,
                                       fieldNo := none, results := .noChange }]
            | none => []))
          ((if s.wall.slew.isSome then 1 else 0) + (if s.cmd.snap.isSome then 1 else 0)))

/-- A soft reset, whatever ENABLE value it carries and in every port state: each block takes its part. The port is
DISABLED with its registers at 0 and the phase at 1, held slots become FREE with a new generation, the scheduler is
RUNNING with nothing to take, slew, SNAP, commands and reports are gone, the channels are DISABLED at their parked levels,
the inputs are OFF; the clocks run on, and INT_ENABLE and INT_MODERATION are kept (R24, R52, R68, R92, R132, R147, R163,
R178, R186, R191). That an input keeps its filtered level is the model's reading (log entry 25). -/
def Obligations.SoftResetResetsEveryBlock : Prop :=
  ∀ (s : State) (enable : Bool), ∃ t, exec (.softReset enable) s = .next t ∧
    t.port = { state := .disabled, crBase := 0, crSize := 0, crTail := 0, crHead := 0, rrBase := 0, rrSize := 0,
               rrHead := 0, rrTail := 0, phase := true, configError := .none, faultCode := .none, faultAddr := 0,
               fetch := none } ∧
    t.cmd = { state := .idle, adjust := none, snap := none } ∧
    t.reports = { records := [], reservations := 0, lost := 0, write := none } ∧
    t.irq = { s.irq with status := ⟨false, false, false⟩, count := 0, start := none } ∧
    (∀ i, (s.slot i).held = none → t.slot i = s.slot i) ∧
    (∀ i h, (s.slot i).held = some h → t.slot i = { gen := (s.slot i).gen + 1, held := none }) ∧
    t.sched.state = .running ∧ t.sched.monoDue = [] ∧ t.sched.wallDue = [] ∧ t.sched.patterns = [] ∧
    (∀ k : Fin 4, t.sched.waits[k.val] = []) ∧ t.sched.found = [] ∧
    t.time = s.time ∧
    t.wall = { s.wall with state := if s.wall.state = .slewing then .running else s.wall.state, slew := none,
                           snap := none } ∧
    (∀ ch, (s.chan ch).state = .disabled → t.chan ch = s.chan ch) ∧
    (∀ ch, (s.chan ch).state ≠ .disabled →
      t.chan ch = { state := .disabled, level := (s.chan ch).parked, parked := (s.chan ch).parked, running := none,
                    queue := [] }) ∧
    (∀ k, t.cap k = { s.cap k with on := false, candidate := none })

/-- A write of the register window. CR_TAIL is stored in RUNNING when it lies in the ring, with the start of a fetch whose
conditions then hold, and halts the port otherwise; RR_HEAD is stored in RUNNING and DRAINING
when it releases no more than what has been written, with the start of a report write whose conditions then hold, and halts
the port otherwise; each has no effect in the other port states. The ring bases and sizes are stored in DISABLED alone, a
register with behaviour of its own takes the write as its own row, a read-only one takes none, and an offset without a
register stops the model (R148, R149, R156 to R160, R184; the stop is log entry 17). -/
def Obligations.RegisterWritesAreTaken : Prop :=
  ∀ (s : State) (v : Word),
    (let starts := s.port.crHead ≠ v.toNat ∧ s.cmd.state = .idle ∧
       s.port.fetch = none ∧ s.reports.records.length + s.reports.reservations < 32
     (s.port.state = .running → v.toNat < s.port.crSize.toNat →
        (¬ starts → exec (.crTailWrite v) s = .next { s with port := { s.port with crTail := v.toNat } }) ∧
        (starts → exec (.crTailWrite v) s = .next
          { s with
            port := { s.port with crTail := v.toNat,
                                  fetch := some (s.port.crBase + BitVec.ofNat 32 (32 * s.port.crHead)) }
            reports := { s.reports with reservations := s.reports.reservations + 1 } })) ∧
      (s.port.state = .running → s.port.crSize.toNat ≤ v.toNat →
        ∃ t, exec (.crTailWrite v) s = .next t ∧ s.haltedAs t .tailRange 0) ∧
      (s.port.state ≠ .running → exec (.crTailWrite v) s = .next s)) ∧
    (let size := s.port.rrSize.toNat
     let accepted := v.toNat < size ∧
       (v.toNat + size - s.port.rrHead) % size ≤ (s.port.rrTail + size - s.port.rrHead) % size
     let serving := s.port.state = .running ∨ s.port.state = .draining
     let tail := (s.port.rrTail + 1) % size
     (serving → accepted →
       ((s.reports.records = [] ∨ s.reports.write ≠ none ∨ tail = v.toNat) →
         exec (.rrHeadWrite v) s = .next { s with port := { s.port with rrHead := v.toNat } }) ∧
       ∀ front rest, s.reports.records = front :: rest → s.reports.write = none → tail ≠ v.toNat →
         exec (.rrHeadWrite v) s = .next
           { s with
             port := { s.port with rrHead := v.toNat }
             reports := { s.reports with write := some ⟨s.port.rrBase + BitVec.ofNat 32 (32 * s.port.rrTail),
               s.port.rrTail, s.port.phase, front.bytes s.port.phase⟩ } }) ∧
     (serving → ¬ accepted → ∃ t, exec (.rrHeadWrite v) s = .next t ∧ s.haltedAs t .headRange 0) ∧
     (¬ serving → exec (.rrHeadWrite v) s = .next s)) ∧
    (s.port.state = .disabled →
      exec (.registerWrite 0x18 v) s = .next { s with port := { s.port with crBase := v } } ∧
      exec (.registerWrite 0x1C v) s = .next { s with port := { s.port with crSize := v } } ∧
      exec (.registerWrite 0x28 v) s = .next { s with port := { s.port with rrBase := v } } ∧
      exec (.registerWrite 0x2C v) s = .next { s with port := { s.port with rrSize := v } }) ∧
    (s.port.state ≠ .disabled → ∀ offset, offset ∈ [0x18, 0x1C, 0x28, 0x2C] →
      exec (.registerWrite offset v) s = .next s) ∧
    (∀ offset, offset ∈ [0x00, 0x04, 0x0C, 0x10, 0x14, 0x24, 0x34] → exec (.registerWrite offset v) s = .next s) ∧
    exec (.registerWrite 0x08 v) s = (if v.getLsbD 1 then exec (.softReset (v.getLsbD 0)) s
      else if v.getLsbD 0 then exec .enableWrite1 s else exec .enableWrite0 s) ∧
    exec (.registerWrite 0x20 v) s = exec (.crTailWrite v) s ∧ exec (.registerWrite 0x30 v) s = exec (.rrHeadWrite v) s ∧
    exec (.registerWrite 0x38 v) s = exec (.intStatusWrite v) s ∧
    exec (.registerWrite 0x3C v) s = exec (.intEnableWrite v) s ∧
    exec (.registerWrite 0x40 v) s = exec (.intModerationWrite v) s ∧
    (∀ offset, (0x40 < offset ∨ offset % 4 ≠ 0) →
      exec (.registerWrite offset v) s = .fault (.noSuchRegister offset))
end

