-- ==== Sys2Proof/Laws/State.lean ====
section
/-! SUPPORT. One lemma for each setter of State and each field, true by unfolding, so that no later proof unfolds a record
update; then what the setters of one slot, channel and input do. -/

namespace Sys2Proof.Machine

variable (s : State)

/-! ### State.setPort -/

@[simp] theorem State.setPort_port (x : Port) : (s.setPort x).port = x := rfl
@[simp] theorem State.setPort_cmd (x : Port) : (s.setPort x).cmd = s.cmd := rfl
@[simp] theorem State.setPort_reports (x : Port) : (s.setPort x).reports = s.reports := rfl
@[simp] theorem State.setPort_irq (x : Port) : (s.setPort x).irq = s.irq := rfl
@[simp] theorem State.setPort_slots (x : Port) : (s.setPort x).slots = s.slots := rfl
@[simp] theorem State.setPort_sched (x : Port) : (s.setPort x).sched = s.sched := rfl
@[simp] theorem State.setPort_time (x : Port) : (s.setPort x).time = s.time := rfl
@[simp] theorem State.setPort_wall (x : Port) : (s.setPort x).wall = s.wall := rfl
@[simp] theorem State.setPort_chans (x : Port) : (s.setPort x).chans = s.chans := rfl
@[simp] theorem State.setPort_caps (x : Port) : (s.setPort x).caps = s.caps := rfl
@[simp] theorem State.setPort_choices (x : Port) : (s.setPort x).choices = s.choices := rfl
@[simp] theorem State.setPort_pending (x : Port) : (s.setPort x).pending = s.pending := rfl

/-! ### State.setCmd -/

@[simp] theorem State.setCmd_port (x : CmdUnit) : (s.setCmd x).port = s.port := rfl
@[simp] theorem State.setCmd_cmd (x : CmdUnit) : (s.setCmd x).cmd = x := rfl
@[simp] theorem State.setCmd_reports (x : CmdUnit) : (s.setCmd x).reports = s.reports := rfl
@[simp] theorem State.setCmd_irq (x : CmdUnit) : (s.setCmd x).irq = s.irq := rfl
@[simp] theorem State.setCmd_slots (x : CmdUnit) : (s.setCmd x).slots = s.slots := rfl
@[simp] theorem State.setCmd_sched (x : CmdUnit) : (s.setCmd x).sched = s.sched := rfl
@[simp] theorem State.setCmd_time (x : CmdUnit) : (s.setCmd x).time = s.time := rfl
@[simp] theorem State.setCmd_wall (x : CmdUnit) : (s.setCmd x).wall = s.wall := rfl
@[simp] theorem State.setCmd_chans (x : CmdUnit) : (s.setCmd x).chans = s.chans := rfl
@[simp] theorem State.setCmd_caps (x : CmdUnit) : (s.setCmd x).caps = s.caps := rfl
@[simp] theorem State.setCmd_choices (x : CmdUnit) : (s.setCmd x).choices = s.choices := rfl
@[simp] theorem State.setCmd_pending (x : CmdUnit) : (s.setCmd x).pending = s.pending := rfl

/-! ### State.setReports -/

@[simp] theorem State.setReports_port (x : ReportQueue) : (s.setReports x).port = s.port := rfl
@[simp] theorem State.setReports_cmd (x : ReportQueue) : (s.setReports x).cmd = s.cmd := rfl
@[simp] theorem State.setReports_reports (x : ReportQueue) : (s.setReports x).reports = x := rfl
@[simp] theorem State.setReports_irq (x : ReportQueue) : (s.setReports x).irq = s.irq := rfl
@[simp] theorem State.setReports_slots (x : ReportQueue) : (s.setReports x).slots = s.slots := rfl
@[simp] theorem State.setReports_sched (x : ReportQueue) : (s.setReports x).sched = s.sched := rfl
@[simp] theorem State.setReports_time (x : ReportQueue) : (s.setReports x).time = s.time := rfl
@[simp] theorem State.setReports_wall (x : ReportQueue) : (s.setReports x).wall = s.wall := rfl
@[simp] theorem State.setReports_chans (x : ReportQueue) : (s.setReports x).chans = s.chans := rfl
@[simp] theorem State.setReports_caps (x : ReportQueue) : (s.setReports x).caps = s.caps := rfl
@[simp] theorem State.setReports_choices (x : ReportQueue) : (s.setReports x).choices = s.choices := rfl
@[simp] theorem State.setReports_pending (x : ReportQueue) : (s.setReports x).pending = s.pending := rfl

/-! ### State.setIrq -/

@[simp] theorem State.setIrq_port (x : Irq) : (s.setIrq x).port = s.port := rfl
@[simp] theorem State.setIrq_cmd (x : Irq) : (s.setIrq x).cmd = s.cmd := rfl
@[simp] theorem State.setIrq_reports (x : Irq) : (s.setIrq x).reports = s.reports := rfl
@[simp] theorem State.setIrq_irq (x : Irq) : (s.setIrq x).irq = x := rfl
@[simp] theorem State.setIrq_slots (x : Irq) : (s.setIrq x).slots = s.slots := rfl
@[simp] theorem State.setIrq_sched (x : Irq) : (s.setIrq x).sched = s.sched := rfl
@[simp] theorem State.setIrq_time (x : Irq) : (s.setIrq x).time = s.time := rfl
@[simp] theorem State.setIrq_wall (x : Irq) : (s.setIrq x).wall = s.wall := rfl
@[simp] theorem State.setIrq_chans (x : Irq) : (s.setIrq x).chans = s.chans := rfl
@[simp] theorem State.setIrq_caps (x : Irq) : (s.setIrq x).caps = s.caps := rfl
@[simp] theorem State.setIrq_choices (x : Irq) : (s.setIrq x).choices = s.choices := rfl
@[simp] theorem State.setIrq_pending (x : Irq) : (s.setIrq x).pending = s.pending := rfl

/-! ### State.setSlots -/

@[simp] theorem State.setSlots_port (x : Vector Slot 256) : (s.setSlots x).port = s.port := rfl
@[simp] theorem State.setSlots_cmd (x : Vector Slot 256) : (s.setSlots x).cmd = s.cmd := rfl
@[simp] theorem State.setSlots_reports (x : Vector Slot 256) : (s.setSlots x).reports = s.reports := rfl
@[simp] theorem State.setSlots_irq (x : Vector Slot 256) : (s.setSlots x).irq = s.irq := rfl
@[simp] theorem State.setSlots_slots (x : Vector Slot 256) : (s.setSlots x).slots = x := rfl
@[simp] theorem State.setSlots_sched (x : Vector Slot 256) : (s.setSlots x).sched = s.sched := rfl
@[simp] theorem State.setSlots_time (x : Vector Slot 256) : (s.setSlots x).time = s.time := rfl
@[simp] theorem State.setSlots_wall (x : Vector Slot 256) : (s.setSlots x).wall = s.wall := rfl
@[simp] theorem State.setSlots_chans (x : Vector Slot 256) : (s.setSlots x).chans = s.chans := rfl
@[simp] theorem State.setSlots_caps (x : Vector Slot 256) : (s.setSlots x).caps = s.caps := rfl
@[simp] theorem State.setSlots_choices (x : Vector Slot 256) : (s.setSlots x).choices = s.choices := rfl
@[simp] theorem State.setSlots_pending (x : Vector Slot 256) : (s.setSlots x).pending = s.pending := rfl

/-! ### State.setSched -/

@[simp] theorem State.setSched_port (x : Sched) : (s.setSched x).port = s.port := rfl
@[simp] theorem State.setSched_cmd (x : Sched) : (s.setSched x).cmd = s.cmd := rfl
@[simp] theorem State.setSched_reports (x : Sched) : (s.setSched x).reports = s.reports := rfl
@[simp] theorem State.setSched_irq (x : Sched) : (s.setSched x).irq = s.irq := rfl
@[simp] theorem State.setSched_slots (x : Sched) : (s.setSched x).slots = s.slots := rfl
@[simp] theorem State.setSched_sched (x : Sched) : (s.setSched x).sched = x := rfl
@[simp] theorem State.setSched_time (x : Sched) : (s.setSched x).time = s.time := rfl
@[simp] theorem State.setSched_wall (x : Sched) : (s.setSched x).wall = s.wall := rfl
@[simp] theorem State.setSched_chans (x : Sched) : (s.setSched x).chans = s.chans := rfl
@[simp] theorem State.setSched_caps (x : Sched) : (s.setSched x).caps = s.caps := rfl
@[simp] theorem State.setSched_choices (x : Sched) : (s.setSched x).choices = s.choices := rfl
@[simp] theorem State.setSched_pending (x : Sched) : (s.setSched x).pending = s.pending := rfl

/-! ### State.setTime -/

@[simp] theorem State.setTime_port (x : Timebase) : (s.setTime x).port = s.port := rfl
@[simp] theorem State.setTime_cmd (x : Timebase) : (s.setTime x).cmd = s.cmd := rfl
@[simp] theorem State.setTime_reports (x : Timebase) : (s.setTime x).reports = s.reports := rfl
@[simp] theorem State.setTime_irq (x : Timebase) : (s.setTime x).irq = s.irq := rfl
@[simp] theorem State.setTime_slots (x : Timebase) : (s.setTime x).slots = s.slots := rfl
@[simp] theorem State.setTime_sched (x : Timebase) : (s.setTime x).sched = s.sched := rfl
@[simp] theorem State.setTime_time (x : Timebase) : (s.setTime x).time = x := rfl
@[simp] theorem State.setTime_wall (x : Timebase) : (s.setTime x).wall = s.wall := rfl
@[simp] theorem State.setTime_chans (x : Timebase) : (s.setTime x).chans = s.chans := rfl
@[simp] theorem State.setTime_caps (x : Timebase) : (s.setTime x).caps = s.caps := rfl
@[simp] theorem State.setTime_choices (x : Timebase) : (s.setTime x).choices = s.choices := rfl
@[simp] theorem State.setTime_pending (x : Timebase) : (s.setTime x).pending = s.pending := rfl

/-! ### State.setWall -/

@[simp] theorem State.setWall_port (x : Wall) : (s.setWall x).port = s.port := rfl
@[simp] theorem State.setWall_cmd (x : Wall) : (s.setWall x).cmd = s.cmd := rfl
@[simp] theorem State.setWall_reports (x : Wall) : (s.setWall x).reports = s.reports := rfl
@[simp] theorem State.setWall_irq (x : Wall) : (s.setWall x).irq = s.irq := rfl
@[simp] theorem State.setWall_slots (x : Wall) : (s.setWall x).slots = s.slots := rfl
@[simp] theorem State.setWall_sched (x : Wall) : (s.setWall x).sched = s.sched := rfl
@[simp] theorem State.setWall_time (x : Wall) : (s.setWall x).time = s.time := rfl
@[simp] theorem State.setWall_wall (x : Wall) : (s.setWall x).wall = x := rfl
@[simp] theorem State.setWall_chans (x : Wall) : (s.setWall x).chans = s.chans := rfl
@[simp] theorem State.setWall_caps (x : Wall) : (s.setWall x).caps = s.caps := rfl
@[simp] theorem State.setWall_choices (x : Wall) : (s.setWall x).choices = s.choices := rfl
@[simp] theorem State.setWall_pending (x : Wall) : (s.setWall x).pending = s.pending := rfl

/-! ### State.setChans -/

@[simp] theorem State.setChans_port (x : Vector Channel 8) : (s.setChans x).port = s.port := rfl
@[simp] theorem State.setChans_cmd (x : Vector Channel 8) : (s.setChans x).cmd = s.cmd := rfl
@[simp] theorem State.setChans_reports (x : Vector Channel 8) : (s.setChans x).reports = s.reports := rfl
@[simp] theorem State.setChans_irq (x : Vector Channel 8) : (s.setChans x).irq = s.irq := rfl
@[simp] theorem State.setChans_slots (x : Vector Channel 8) : (s.setChans x).slots = s.slots := rfl
@[simp] theorem State.setChans_sched (x : Vector Channel 8) : (s.setChans x).sched = s.sched := rfl
@[simp] theorem State.setChans_time (x : Vector Channel 8) : (s.setChans x).time = s.time := rfl
@[simp] theorem State.setChans_wall (x : Vector Channel 8) : (s.setChans x).wall = s.wall := rfl
@[simp] theorem State.setChans_chans (x : Vector Channel 8) : (s.setChans x).chans = x := rfl
@[simp] theorem State.setChans_caps (x : Vector Channel 8) : (s.setChans x).caps = s.caps := rfl
@[simp] theorem State.setChans_choices (x : Vector Channel 8) : (s.setChans x).choices = s.choices := rfl
@[simp] theorem State.setChans_pending (x : Vector Channel 8) : (s.setChans x).pending = s.pending := rfl

/-! ### State.setCaps -/

@[simp] theorem State.setCaps_port (x : Vector Capture 4) : (s.setCaps x).port = s.port := rfl
@[simp] theorem State.setCaps_cmd (x : Vector Capture 4) : (s.setCaps x).cmd = s.cmd := rfl
@[simp] theorem State.setCaps_reports (x : Vector Capture 4) : (s.setCaps x).reports = s.reports := rfl
@[simp] theorem State.setCaps_irq (x : Vector Capture 4) : (s.setCaps x).irq = s.irq := rfl
@[simp] theorem State.setCaps_slots (x : Vector Capture 4) : (s.setCaps x).slots = s.slots := rfl
@[simp] theorem State.setCaps_sched (x : Vector Capture 4) : (s.setCaps x).sched = s.sched := rfl
@[simp] theorem State.setCaps_time (x : Vector Capture 4) : (s.setCaps x).time = s.time := rfl
@[simp] theorem State.setCaps_wall (x : Vector Capture 4) : (s.setCaps x).wall = s.wall := rfl
@[simp] theorem State.setCaps_chans (x : Vector Capture 4) : (s.setCaps x).chans = s.chans := rfl
@[simp] theorem State.setCaps_caps (x : Vector Capture 4) : (s.setCaps x).caps = x := rfl
@[simp] theorem State.setCaps_choices (x : Vector Capture 4) : (s.setCaps x).choices = s.choices := rfl
@[simp] theorem State.setCaps_pending (x : Vector Capture 4) : (s.setCaps x).pending = s.pending := rfl

/-! ### State.setChoices -/

@[simp] theorem State.setChoices_port (x : Nat) : (s.setChoices x).port = s.port := rfl
@[simp] theorem State.setChoices_cmd (x : Nat) : (s.setChoices x).cmd = s.cmd := rfl
@[simp] theorem State.setChoices_reports (x : Nat) : (s.setChoices x).reports = s.reports := rfl
@[simp] theorem State.setChoices_irq (x : Nat) : (s.setChoices x).irq = s.irq := rfl
@[simp] theorem State.setChoices_slots (x : Nat) : (s.setChoices x).slots = s.slots := rfl
@[simp] theorem State.setChoices_sched (x : Nat) : (s.setChoices x).sched = s.sched := rfl
@[simp] theorem State.setChoices_time (x : Nat) : (s.setChoices x).time = s.time := rfl
@[simp] theorem State.setChoices_wall (x : Nat) : (s.setChoices x).wall = s.wall := rfl
@[simp] theorem State.setChoices_chans (x : Nat) : (s.setChoices x).chans = s.chans := rfl
@[simp] theorem State.setChoices_caps (x : Nat) : (s.setChoices x).caps = s.caps := rfl
@[simp] theorem State.setChoices_choices (x : Nat) : (s.setChoices x).choices = x := rfl
@[simp] theorem State.setChoices_pending (x : Nat) : (s.setChoices x).pending = s.pending := rfl

/-! ### State.setPending -/

@[simp] theorem State.setPending_port (x : List Instr) : (s.setPending x).port = s.port := rfl
@[simp] theorem State.setPending_cmd (x : List Instr) : (s.setPending x).cmd = s.cmd := rfl
@[simp] theorem State.setPending_reports (x : List Instr) : (s.setPending x).reports = s.reports := rfl
@[simp] theorem State.setPending_irq (x : List Instr) : (s.setPending x).irq = s.irq := rfl
@[simp] theorem State.setPending_slots (x : List Instr) : (s.setPending x).slots = s.slots := rfl
@[simp] theorem State.setPending_sched (x : List Instr) : (s.setPending x).sched = s.sched := rfl
@[simp] theorem State.setPending_time (x : List Instr) : (s.setPending x).time = s.time := rfl
@[simp] theorem State.setPending_wall (x : List Instr) : (s.setPending x).wall = s.wall := rfl
@[simp] theorem State.setPending_chans (x : List Instr) : (s.setPending x).chans = s.chans := rfl
@[simp] theorem State.setPending_caps (x : List Instr) : (s.setPending x).caps = s.caps := rfl
@[simp] theorem State.setPending_choices (x : List Instr) : (s.setPending x).choices = s.choices := rfl
@[simp] theorem State.setPending_pending (x : List Instr) : (s.setPending x).pending = x := rfl

/-! ### One slot, one channel, one input -/

@[simp] theorem State.setSlot_port (i : SlotId) (x : Slot) : (s.setSlot i x).port = s.port := rfl
@[simp] theorem State.setSlot_cmd (i : SlotId) (x : Slot) : (s.setSlot i x).cmd = s.cmd := rfl
@[simp] theorem State.setSlot_reports (i : SlotId) (x : Slot) : (s.setSlot i x).reports = s.reports := rfl
@[simp] theorem State.setSlot_irq (i : SlotId) (x : Slot) : (s.setSlot i x).irq = s.irq := rfl
@[simp] theorem State.setSlot_sched (i : SlotId) (x : Slot) : (s.setSlot i x).sched = s.sched := rfl
@[simp] theorem State.setSlot_time (i : SlotId) (x : Slot) : (s.setSlot i x).time = s.time := rfl
@[simp] theorem State.setSlot_wall (i : SlotId) (x : Slot) : (s.setSlot i x).wall = s.wall := rfl
@[simp] theorem State.setSlot_chans (i : SlotId) (x : Slot) : (s.setSlot i x).chans = s.chans := rfl
@[simp] theorem State.setSlot_caps (i : SlotId) (x : Slot) : (s.setSlot i x).caps = s.caps := rfl
@[simp] theorem State.setSlot_choices (i : SlotId) (x : Slot) : (s.setSlot i x).choices = s.choices := rfl
@[simp] theorem State.setSlot_pending (i : SlotId) (x : Slot) : (s.setSlot i x).pending = s.pending := rfl

@[simp] theorem State.setChan_port (i : Fin 8) (x : Channel) : (s.setChan i x).port = s.port := rfl
@[simp] theorem State.setChan_cmd (i : Fin 8) (x : Channel) : (s.setChan i x).cmd = s.cmd := rfl
@[simp] theorem State.setChan_reports (i : Fin 8) (x : Channel) : (s.setChan i x).reports = s.reports := rfl
@[simp] theorem State.setChan_irq (i : Fin 8) (x : Channel) : (s.setChan i x).irq = s.irq := rfl
@[simp] theorem State.setChan_slots (i : Fin 8) (x : Channel) : (s.setChan i x).slots = s.slots := rfl
@[simp] theorem State.setChan_sched (i : Fin 8) (x : Channel) : (s.setChan i x).sched = s.sched := rfl
@[simp] theorem State.setChan_time (i : Fin 8) (x : Channel) : (s.setChan i x).time = s.time := rfl
@[simp] theorem State.setChan_wall (i : Fin 8) (x : Channel) : (s.setChan i x).wall = s.wall := rfl
@[simp] theorem State.setChan_caps (i : Fin 8) (x : Channel) : (s.setChan i x).caps = s.caps := rfl
@[simp] theorem State.setChan_choices (i : Fin 8) (x : Channel) : (s.setChan i x).choices = s.choices := rfl
@[simp] theorem State.setChan_pending (i : Fin 8) (x : Channel) : (s.setChan i x).pending = s.pending := rfl

@[simp] theorem State.setCap_port (i : Fin 4) (x : Capture) : (s.setCap i x).port = s.port := rfl
@[simp] theorem State.setCap_cmd (i : Fin 4) (x : Capture) : (s.setCap i x).cmd = s.cmd := rfl
@[simp] theorem State.setCap_reports (i : Fin 4) (x : Capture) : (s.setCap i x).reports = s.reports := rfl
@[simp] theorem State.setCap_irq (i : Fin 4) (x : Capture) : (s.setCap i x).irq = s.irq := rfl
@[simp] theorem State.setCap_slots (i : Fin 4) (x : Capture) : (s.setCap i x).slots = s.slots := rfl
@[simp] theorem State.setCap_sched (i : Fin 4) (x : Capture) : (s.setCap i x).sched = s.sched := rfl
@[simp] theorem State.setCap_time (i : Fin 4) (x : Capture) : (s.setCap i x).time = s.time := rfl
@[simp] theorem State.setCap_wall (i : Fin 4) (x : Capture) : (s.setCap i x).wall = s.wall := rfl
@[simp] theorem State.setCap_chans (i : Fin 4) (x : Capture) : (s.setCap i x).chans = s.chans := rfl
@[simp] theorem State.setCap_choices (i : Fin 4) (x : Capture) : (s.setCap i x).choices = s.choices := rfl
@[simp] theorem State.setCap_pending (i : Fin 4) (x : Capture) : (s.setCap i x).pending = s.pending := rfl

@[simp] theorem State.setHeld_port (i : SlotId) (x : Held) : (s.setHeld i x).port = s.port := rfl
@[simp] theorem State.setHeld_cmd (i : SlotId) (x : Held) : (s.setHeld i x).cmd = s.cmd := rfl
@[simp] theorem State.setHeld_reports (i : SlotId) (x : Held) : (s.setHeld i x).reports = s.reports := rfl
@[simp] theorem State.setHeld_irq (i : SlotId) (x : Held) : (s.setHeld i x).irq = s.irq := rfl
@[simp] theorem State.setHeld_sched (i : SlotId) (x : Held) : (s.setHeld i x).sched = s.sched := rfl
@[simp] theorem State.setHeld_time (i : SlotId) (x : Held) : (s.setHeld i x).time = s.time := rfl
@[simp] theorem State.setHeld_wall (i : SlotId) (x : Held) : (s.setHeld i x).wall = s.wall := rfl
@[simp] theorem State.setHeld_chans (i : SlotId) (x : Held) : (s.setHeld i x).chans = s.chans := rfl
@[simp] theorem State.setHeld_caps (i : SlotId) (x : Held) : (s.setHeld i x).caps = s.caps := rfl
@[simp] theorem State.setHeld_choices (i : SlotId) (x : Held) : (s.setHeld i x).choices = s.choices := rfl
@[simp] theorem State.setHeld_pending (i : SlotId) (x : Held) : (s.setHeld i x).pending = s.pending := rfl

/-! ### Reading one slot, channel or input -/

@[simp] theorem State.slot_setSlot_self (i : SlotId) (x : Slot) : (s.setSlot i x).slot i = x := by
  simp [State.slot, State.setSlot]

theorem State.slot_setSlot_of_ne {i j : SlotId} (x : Slot) (h : j ≠ i) : (s.setSlot i x).slot j = s.slot j := by
  have : i.val ≠ j.val := fun e => h (Fin.ext e.symm)
  simp [State.slot, State.setSlot, this]

@[simp] theorem State.slot_setHeld_self (i : SlotId) (x : Held) :
    (s.setHeld i x).slot i = { gen := (s.slot i).gen, held := some x } := by
  simp [State.setHeld]

theorem State.slot_setHeld_of_ne {i j : SlotId} (x : Held) (h : j ≠ i) : (s.setHeld i x).slot j = s.slot j :=
  s.slot_setSlot_of_ne _ h

@[simp] theorem State.chan_setChan_self (ch : Fin 8) (c : Channel) : (s.setChan ch c).chan ch = c := by
  simp [State.chan, State.setChan]

theorem State.chan_setChan_of_ne {ch k : Fin 8} (c : Channel) (h : k ≠ ch) : (s.setChan ch c).chan k = s.chan k := by
  have : ch.val ≠ k.val := fun e => h (Fin.ext e.symm)
  simp [State.chan, State.setChan, this]

@[simp] theorem State.cap_setCap_self (k : Fin 4) (c : Capture) : (s.setCap k c).cap k = c := by
  simp [State.cap, State.setCap]

theorem State.cap_setCap_of_ne {k j : Fin 4} (c : Capture) (h : j ≠ k) : (s.setCap k c).cap j = s.cap j := by
  have : k.val ≠ j.val := fun e => h (Fin.ext e.symm)
  simp [State.cap, State.setCap, this]

/-- A slot is read through the slots alone. -/
theorem State.slot_congr {s t : State} (h : t.slots = s.slots) (i : SlotId) : t.slot i = s.slot i := by
  simp [State.slot, h]

/-- A channel is read through the channels alone. -/
theorem State.chan_congr {s t : State} (h : t.chans = s.chans) (ch : Fin 8) : t.chan ch = s.chan ch := by
  simp [State.chan, h]

/-- An input is read through the inputs alone. -/
theorem State.cap_congr {s t : State} (h : t.caps = s.caps) (k : Fin 4) : t.cap k = s.cap k := by
  simp [State.cap, h]

end Sys2Proof.Machine
end

