-- ==== Sys2Proof/Laws/Ops.lean ====
section
/-! SUPPORT. What the shared operations on the report queue and the command unit can do, each said once: the offer of an
event report, the acceptance of completions, the answer to a command in hand, and the halt. -/

namespace Sys2Proof.Machine

/-! ### Event reports -/

/-- Two states alike but for the report queue's records and lost count, and LOSS. -/
structure State.OffersFrom (s t : State) : Prop where
  port : t.port = s.port
  cmd : t.cmd = s.cmd
  slots : t.slots = s.slots
  sched : t.sched = s.sched
  time : t.time = s.time
  wall : t.wall = s.wall
  chans : t.chans = s.chans
  caps : t.caps = s.caps
  choices : t.choices = s.choices
  pending : t.pending = s.pending
  reservations : t.reports.reservations = s.reports.reservations
  write : t.reports.write = s.reports.write
  irq : t.irq = s.irq ∨ t.irq = s.irq.setLoss
  records : ∃ added : List Report, t.reports.records = s.reports.records ++ added ∧
    ∀ r ∈ added, r.isCompletion = false

theorem State.OffersFrom.refl (s : State) : s.OffersFrom s where
  port := rfl
  cmd := rfl
  slots := rfl
  sched := rfl
  time := rfl
  wall := rfl
  chans := rfl
  caps := rfl
  choices := rfl
  pending := rfl
  reservations := rfl
  write := rfl
  irq := .inl rfl
  records := ⟨[], by simp⟩

@[simp] theorem Irq.setLoss_setLoss (q : Irq) : q.setLoss.setLoss = q.setLoss := rfl

theorem State.OffersFrom.trans {s t u : State} (h : s.OffersFrom t) (k : t.OffersFrom u) : s.OffersFrom u where
  port := k.port.trans h.port
  cmd := k.cmd.trans h.cmd
  slots := k.slots.trans h.slots
  sched := k.sched.trans h.sched
  time := k.time.trans h.time
  wall := k.wall.trans h.wall
  chans := k.chans.trans h.chans
  caps := k.caps.trans h.caps
  choices := k.choices.trans h.choices
  pending := k.pending.trans h.pending
  reservations := k.reservations.trans h.reservations
  write := k.write.trans h.write
  irq := by
    rcases h.irq with h | h <;> rcases k.irq with k | k <;> simp [k, h]
  records := by
    obtain ⟨as, ha, na⟩ := h.records
    obtain ⟨bs, hb, nb⟩ := k.records
    refine ⟨as ++ bs, by simp [hb, ha], ?_⟩
    intro r hr
    rcases List.mem_append.mp hr with hr | hr
    · exact na r hr
    · exact nb r hr

/-- A dropped report changes the lost count and, at its first, LOSS. -/
theorem dropReport_offersFrom (s : State) : s.OffersFrom (dropReport s) := by
  unfold dropReport
  constructor <;> split <;> simp [State.setLost]

/-- The appending of an event report. -/
theorem State.append_offersFrom (s : State) (r : Report) (h : r.isCompletion = false) : s.OffersFrom (s.append r) := by
  constructor <;> simp [State.append, h]

/-- The setting of the lost count. -/
theorem State.setLost_offersFrom (s : State) (n : Nat) : s.OffersFrom (s.setLost n) := by
  constructor <;> simp [State.setLost]

/-- An offer changes nothing but the report queue's records and lost count, and LOSS. -/
theorem offer_offersFrom (s : State) (r : Report) (h : r.isCompletion = false) : s.OffersFrom (offer s r) := by
  unfold offer
  split
  · split
    · exact s.append_offersFrom r h
    · have told := (s.append_offersFrom (.overflow s.reports.lost s.mono) rfl).trans
        ((s.append _).setLost_offersFrom 0)
      dsimp only
      split
      · exact told.trans (State.append_offersFrom _ r h)
      · exact told.trans (dropReport_offersFrom _)
  · exact dropReport_offersFrom s

/-- Several offers. -/
theorem offerAll_offersFrom (rs : List Report) (s : State) (h : ∀ r ∈ rs, r.isCompletion = false) :
    s.OffersFrom (offerAll s rs) := by
  induction rs generalizing s with
  | nil => exact .refl s
  | cons r rs ih =>
    exact (offer_offersFrom s r (h r (by simp))).trans (ih (offer s r) fun x hx => h x (by simp [hx]))

/-- The offers of DONE reports. -/
theorem offerDones_offersFrom (s : State) (ds : List DoneReport) : s.OffersFrom (offerDones s ds) := by
  apply offerAll_offersFrom
  intro r hr
  obtain ⟨d, -, rfl⟩ := List.mem_map.mp hr
  rfl

/-- What a drop does to the report queue. -/
@[simp] theorem dropReport_reports (s : State) :
    (dropReport s).reports = { s.reports with lost := saturate Config.max16 (s.reports.lost + 1) } := by
  unfold dropReport
  dsimp only
  split <;> rfl

@[simp] theorem State.append_reports (s : State) (r : Report) :
    (s.append r).reports = { s.reports with records := s.reports.records ++ [r] } := rfl

@[simp] theorem State.setLost_reports (s : State) (n : Nat) : (s.setLost n).reports = { s.reports with lost := n } := rfl

/-- A sound queue is not overfilled by an offer (R180). -/
theorem offer_room (s : State) (r : Report) (h : s.reports.records.length + s.reports.reservations ≤ 32) :
    (offer s r).reports.records.length + (offer s r).reports.reservations ≤ 32 := by
  unfold offer
  dsimp only
  split
  · rename_i room
    have margin : s.reports.records.length + s.reports.reservations + s.reports.margin = 32 := by
      simp only [ReportQueue.margin, ReportQueue.free, Config.queueRoom]; omega
    split
    · simp; omega
    · split <;> simp <;> omega
  · simpa using h

/-! ### The starts that an event contains -/

/-- What a fetch may change: the fetch in flight, and the reservations by the one it makes. -/
@[simp] theorem fetchIfReady_cmd (s : State) : (fetchIfReady s).cmd = s.cmd := rfl
@[simp] theorem fetchIfReady_irq (s : State) : (fetchIfReady s).irq = s.irq := rfl
@[simp] theorem fetchIfReady_slots (s : State) : (fetchIfReady s).slots = s.slots := rfl
@[simp] theorem fetchIfReady_sched (s : State) : (fetchIfReady s).sched = s.sched := rfl
@[simp] theorem fetchIfReady_time (s : State) : (fetchIfReady s).time = s.time := rfl
@[simp] theorem fetchIfReady_wall (s : State) : (fetchIfReady s).wall = s.wall := rfl
@[simp] theorem fetchIfReady_chans (s : State) : (fetchIfReady s).chans = s.chans := rfl
@[simp] theorem fetchIfReady_caps (s : State) : (fetchIfReady s).caps = s.caps := rfl
@[simp] theorem fetchIfReady_choices (s : State) : (fetchIfReady s).choices = s.choices := rfl
@[simp] theorem fetchIfReady_pending (s : State) : (fetchIfReady s).pending = s.pending := rfl
@[simp] theorem fetchIfReady_records (s : State) : (fetchIfReady s).reports.records = s.reports.records := rfl
@[simp] theorem fetchIfReady_write (s : State) : (fetchIfReady s).reports.write = s.reports.write := rfl
@[simp] theorem fetchIfReady_lost (s : State) : (fetchIfReady s).reports.lost = s.reports.lost := rfl

/-- What the start of a report write may change: the write in flight alone. -/
@[simp] theorem writeOnAcceptance_port (n : Nat) (s : State) : (writeOnAcceptance n s).port = s.port := rfl
@[simp] theorem writeOnAcceptance_cmd (n : Nat) (s : State) : (writeOnAcceptance n s).cmd = s.cmd := rfl
@[simp] theorem writeOnAcceptance_irq (n : Nat) (s : State) : (writeOnAcceptance n s).irq = s.irq := rfl
@[simp] theorem writeOnAcceptance_slots (n : Nat) (s : State) : (writeOnAcceptance n s).slots = s.slots := rfl
@[simp] theorem writeOnAcceptance_sched (n : Nat) (s : State) : (writeOnAcceptance n s).sched = s.sched := rfl
@[simp] theorem writeOnAcceptance_time (n : Nat) (s : State) : (writeOnAcceptance n s).time = s.time := rfl
@[simp] theorem writeOnAcceptance_wall (n : Nat) (s : State) : (writeOnAcceptance n s).wall = s.wall := rfl
@[simp] theorem writeOnAcceptance_chans (n : Nat) (s : State) : (writeOnAcceptance n s).chans = s.chans := rfl
@[simp] theorem writeOnAcceptance_caps (n : Nat) (s : State) : (writeOnAcceptance n s).caps = s.caps := rfl
@[simp] theorem writeOnAcceptance_choices (n : Nat) (s : State) : (writeOnAcceptance n s).choices = s.choices := rfl
@[simp] theorem writeOnAcceptance_pending (n : Nat) (s : State) : (writeOnAcceptance n s).pending = s.pending := rfl
@[simp] theorem writeOnAcceptance_records (n : Nat) (s : State) :
    (writeOnAcceptance n s).reports.records = s.reports.records := rfl
@[simp] theorem writeOnAcceptance_reservations (n : Nat) (s : State) :
    (writeOnAcceptance n s).reports.reservations = s.reports.reservations := rfl
@[simp] theorem writeOnAcceptance_lost (n : Nat) (s : State) : (writeOnAcceptance n s).reports.lost = s.reports.lost := rfl

/-- A fetch starts exactly where the conditions of R160 hold. -/
theorem fetchIfReady_eq (s : State) : fetchIfReady s = s.fetchStarted := by
  have room : 1 ≤ s.reports.margin ↔ s.reports.records.length + s.reports.reservations < 32 := by
    simp only [ReportQueue.margin, ReportQueue.free, Config.queueRoom]; omega
  have ready : s.fetchReady ↔ s.port.state = .running ∧ s.port.crHead ≠ s.port.crTail ∧ s.cmd.state = .idle ∧
      s.port.fetch = none ∧ s.reports.records.length + s.reports.reservations < 32 := by rw [State.fetchReady, room]
  unfold fetchIfReady State.fetchStarted
  by_cases h : s.fetchReady
  · rw [if_pos (ready.mp h), if_pos h, if_pos h]; rfl
  · rw [if_neg fun x => h (ready.mpr x), if_neg h, if_neg h]; rfl

/-- An event taken in `s` starts the write of its front record exactly where it has accepted a record into an empty queue and
the other conditions of R184 hold. -/
theorem writeOnAcceptance_eq (s t : State) : writeOnAcceptance s.queued t = s.writeStarted t := by
  unfold writeOnAcceptance State.writeStarted State.frontWrite State.queued
  rcases s.reports.records with _ | ⟨a, l⟩
  · rcases t.reports.records with _ | ⟨front, rest⟩
    · rfl
    · by_cases h : (t.port.state = .running ∨ t.port.state = .draining) ∧ t.reports.write = none ∧
          nextIndex t.port.rrTail t.port.rrSize ≠ t.port.rrHead
      · exact (congrArg (fun w => t.setReports { t.reports with write := w }) (if_pos h)).trans (if_pos h).symm
      · exact (congrArg (fun w => t.setReports { t.reports with write := w }) (if_neg h)).trans (if_neg h).symm
  · rfl

/-- The write of the front record starts exactly where the conditions of R184 hold. -/
theorem writeIfReady_cases (s : State) :
    (∃ front rest, s.reports.records = front :: rest ∧ s.port.state.serving ∧ s.reports.write = none ∧
        nextIndex s.port.rrTail s.port.rrSize ≠ s.port.rrHead ∧
        writeIfReady s = s.setReports { s.reports with write := some (s.port.writeOf front) }) ∨
      writeIfReady s = s := by
  unfold writeIfReady State.frontWrite
  rcases e : s.reports.records with _ | ⟨front, rest⟩
  · exact .inr rfl
  · by_cases h : (s.port.state = .running ∨ s.port.state = .draining) ∧ s.reports.write = none ∧
        nextIndex s.port.rrTail s.port.rrSize ≠ s.port.rrHead
    · exact .inl ⟨front, rest, rfl, h.1, h.2.1, h.2.2, by simp only [if_pos h]⟩
    · exact .inr (by simp only [if_neg h]; rfl)

/-- Where the event has left the queue's records as they were, no write starts. -/
theorem writeOnAcceptance_quiet (s t : State) (h : t.reports.records = s.reports.records) :
    writeOnAcceptance s.queued t = t := by
  rw [writeOnAcceptance_eq, State.writeStarted, h]
  cases s.reports.records <;> rfl

/-! ### Completions -/

/-- A completion accepted when the event has offered no event report before it joins the end of the queue (R181). -/
theorem acceptCompletion_quiet (base : Nat) (s : State) (c : Completion) (h : s.reports.records.length = base) :
    acceptCompletion base s c = s.setReports
      { s.reports with records := s.reports.records ++ [.completion c], reservations := s.reports.reservations - 1 } := by
  subst h
  simp [acceptCompletion, openPlaces, openPlace, List.range_succ]
  rfl

/-- Two states alike but for completions accepted: the records gain `cs` behind the first `base`, in an order left open,
the reservations fall by their number, and the count of choices may rise. -/
structure State.AcceptsFrom (s t : State) (base : Nat) (cs : List Completion) : Prop where
  port : t.port = s.port
  cmd : t.cmd = s.cmd
  slots : t.slots = s.slots
  sched : t.sched = s.sched
  time : t.time = s.time
  wall : t.wall = s.wall
  chans : t.chans = s.chans
  caps : t.caps = s.caps
  irq : t.irq = s.irq
  pending : t.pending = s.pending
  reservations : t.reports.reservations = s.reports.reservations - cs.length
  write : t.reports.write = s.reports.write
  lost : t.reports.lost = s.reports.lost
  records : ∃ order : List Report, order.Perm (s.reports.records.drop base ++ cs.map .completion) ∧
    t.reports.records = s.reports.records.take base ++ order

theorem acceptCompletion_acceptsFrom (base : Nat) (s : State) (c : Completion) :
    s.AcceptsFrom (acceptCompletion base s c) base [c] where
  port := rfl
  cmd := rfl
  slots := rfl
  sched := rfl
  time := rfl
  wall := rfl
  chans := rfl
  caps := rfl
  irq := rfl
  pending := rfl
  reservations := rfl
  write := rfl
  lost := rfl
  records := by
    refine ⟨_, ?_, rfl⟩
    refine List.perm_middle.trans ?_
    rw [List.take_append_drop]
    exact (List.perm_append_singleton _ _).symm

theorem acceptAll_acceptsFrom (base : Nat) (cs : List Completion) (s : State) (hb : base ≤ s.reports.records.length) :
    s.AcceptsFrom (acceptAll base s cs) base cs := by
  induction cs generalizing s with
  | nil =>
    refine ⟨rfl, rfl, rfl, rfl, rfl, rfl, rfl, rfl, rfl, rfl, rfl, rfl, rfl, _, ?_, (List.take_append_drop base _).symm⟩
    show (s.reports.records.drop base).Perm _
    simp
  | cons c cs ih =>
    have one := acceptCompletion_acceptsFrom base s c
    obtain ⟨o, op, oe⟩ := one.records
    have hb' : base ≤ (acceptCompletion base s c).reports.records.length := by simp [oe]; omega
    have more := ih (acceptCompletion base s c) hb'
    have unfolded : acceptAll base s (c :: cs) = acceptAll base (acceptCompletion base s c) cs := rfl
    rw [unfolded]
    refine ⟨more.port.trans one.port, more.cmd.trans one.cmd, more.slots.trans one.slots, more.sched.trans one.sched,
      more.time.trans one.time, more.wall.trans one.wall, more.chans.trans one.chans, more.caps.trans one.caps,
      more.irq.trans one.irq, more.pending.trans one.pending, ?_, more.write.trans one.write, more.lost.trans one.lost, ?_⟩
    · rw [more.reservations, one.reservations]; simp; omega
    · obtain ⟨p, pp, pe⟩ := more.records
      have lt : (s.reports.records.take base).length = base := by simp [hb]
      rw [oe, List.drop_left' lt] at pp
      rw [oe, List.take_left' lt] at pe
      refine ⟨p, pp.trans ?_, pe⟩
      refine (op.append_right _).trans ?_
      simp [List.append_assoc]

/-- An answer at once, behind no event report and no other completion: the command unit is IDLE, the completion stands at the
end of the queue, and the event's starts are made (R160, R167, R184). -/
theorem finish_now (c : InHand) (s : State) (status : Status) (fieldNo : Option Nat) (results : Results) :
    finish s.queued c { state := s, reply := .now status fieldNo results, ended := [] } =
      s.answered c status fieldNo results := by
  simp only [finish, acceptAll, List.nil_append, List.foldl_cons, List.foldl_nil, State.queued,
    acceptCompletion_quiet s.reports.records.length s _ rfl]
  rw [show s.reports.records.length = s.queued from rfl, writeOnAcceptance_eq, fetchIfReady_eq]
  rfl

/-- A deferred command is not answered, and the command unit is free for a fetch (R160, R173). -/
theorem finish_later (c : InHand) (s : State) :
    finish s.queued c { state := s, reply := .later, ended := [] } =
      (s.setCmd { s.cmd with state := .idle }).fetchStarted := by
  simp only [finish, acceptAll, List.nil_append, List.foldl_nil]
  rw [writeOnAcceptance_quiet s s.freeUnit rfl, fetchIfReady_eq]
  rfl

/-- The carry-out of a command in hand is its owner's answer, finished (R167). -/
theorem carryOut_holds (opcode : Byte) (s : State) (c : InHand) (owner : InHand → State → Answer)
    (h : s.holds c opcode) : carryOut opcode s owner = finish s.reports.records.length c (owner c s) := by
  simp [carryOut, h.1, InHand.opcode, h.2, State.queued]

/-- A carry-out whose owner answers at once, leaves the report queue as it was and ends no deferred command. -/
theorem carryOut_now (opcode : Byte) (s t : State) (c : InHand) (owner : InHand → State → Answer) (status : Status)
    (fieldNo : Option Nat) (results : Results) (h : s.holds c opcode)
    (answer : owner c s = { state := t, reply := .now status fieldNo results, ended := [] })
    (quiet : t.reports = s.reports) : carryOut opcode s owner = t.answered c status fieldNo results := by
  rw [carryOut_holds opcode s c owner h, answer, ← quiet]
  exact finish_now c t status fieldNo results

/-! ### The halt -/

@[simp] theorem Channel.park_of_disabled (c : Channel) (h : c.state = .disabled) : c.park = c := by simp [Channel.park, h]

theorem Channel.park_of_enabled (c : Channel) (h : c.state ≠ .disabled) :
    c.park = { state := .disabled, level := c.parked, parked := c.parked, running := none, queue := [] } := by
  simp [Channel.park, h, Channel.emptied]

/-- What a halt of a port that is not HALTED does, block by block (R156). -/
theorem halt_haltedAs (s : State) (code : FaultCode) (address : Word) (h : s.port.state ≠ .halted) :
    s.haltedAs (halt s code address) code address := by
  have e : halt s code address =
      ((((((s.stopSlew.dropSnap.setPort
        { s.port with state := .halted, faultCode := code, faultAddr := address, fetch := none }).setIrq
        s.irq.setFault).setCmd .reset).setReports
        { s.reports with records := [], reservations := 0, write := none }).setSched
        { s.sched with state := .halted }).setChans (s.chans.map Channel.park)) := by
    simp [halt, h]
  rw [e]
  refine ⟨rfl, rfl, rfl, rfl, rfl, rfl, ?_, ?_, ?_, rfl, rfl⟩
  · simp [State.dropSnap, State.stopSlew]
  · intro ch hd
    have : ((s.chans.map Channel.park)[ch.val]) = (s.chan ch).park := by simp [State.chan]
    exact this.trans (Channel.park_of_disabled _ hd)
  · intro ch hd
    have : ((s.chans.map Channel.park)[ch.val]) = (s.chan ch).park := by simp [State.chan]
    exact this.trans (Channel.park_of_enabled _ hd)

/-- A halt of a HALTED port changes nothing (R157). -/
theorem halt_of_halted (s : State) (code : FaultCode) (address : Word) (h : s.port.state = .halted) :
    halt s code address = s := by simp [halt, h]

/-! ### The drain -/

/-- A drain check changes nothing but the port state, and that to DISABLED alone (R155). -/
theorem checkDrain_cases (s : State) :
    checkDrain s = s ∨ s.port.state = .draining ∧ checkDrain s = s.setPort { s.port with state := .disabled } := by
  unfold checkDrain
  split
  · rename_i h; exact .inr ⟨h.1, rfl⟩
  · exact .inl rfl

end Sys2Proof.Machine
end

