-- ==== Sys2Proof/Laws/Schedule.lean ====
section
/-! SUPPORT. What the scheduler's operations can do: placing a slot joins the list its due calls for, and whatever is
taken, evaluated, converted or removed touches the slots, the collections, the channels, the report queue's records and
LOSS, and nothing else. -/

namespace Sys2Proof.Machine

/-! ### Joining a due list -/

/-- The joining of a due list is the joining of Safety.lean (R27). -/
theorem insertDue_eq (key : SlotId → Nat) (i : SlotId) (due : Nat) (l : List SlotId) :
    insertDue key i due l =
      l.takeWhile (fun j => decide (key j ≤ due)) ++ i :: l.dropWhile (fun j => decide (key j ≤ due)) := by
  induction l with
  | nil => rfl
  | cons j rest ih =>
    by_cases h : key j ≤ due
    · simp [insertDue, h, ih]
    · simp [insertDue, h]

theorem insertDue_joined (s : State) (i : SlotId) (due : Nat) (l : List SlotId) :
    insertDue s.dueOf i due l = s.joined i due l := insertDue_eq s.dueOf i due l

theorem mem_insertDue {key : SlotId → Nat} {i j : SlotId} {due : Nat} {l : List SlotId} :
    j ∈ insertDue key i due l ↔ j = i ∨ j ∈ l := by
  induction l with
  | nil => simp [insertDue]
  | cons k rest ih =>
    unfold insertDue
    split
    · simp only [List.mem_cons, ih]; tauto
    · simp

theorem nodup_insertDue {key : SlotId → Nat} {i : SlotId} {due : Nat} {l : List SlotId} (h : l.Nodup) (hi : i ∉ l) :
    (insertDue key i due l).Nodup := by
  induction l with
  | nil => simp [insertDue]
  | cons k rest ih =>
    simp only [List.nodup_cons] at h
    simp only [List.mem_cons, not_or] at hi
    unfold insertDue
    split
    · refine List.nodup_cons.mpr ⟨?_, ih h.2 hi.2⟩
      rw [mem_insertDue]
      rintro (rfl | hk)
      · exact hi.1 rfl
      · exact h.1 hk
    · simp [h.1, h.2, hi.1, hi.2]

/-- An ordered due list stays ordered when a slot joins it with a due that is then its own (R26, R27). -/
theorem pairwise_insertDue {key : SlotId → Nat} {i : SlotId} {due : Nat} {l : List SlotId}
    (h : l.Pairwise fun a b => key a ≤ key b) (hi : key i = due) :
    (insertDue key i due l).Pairwise fun a b => key a ≤ key b := by
  induction l with
  | nil => simp [insertDue]
  | cons k rest ih =>
    rw [List.pairwise_cons] at h
    unfold insertDue
    split
    · rename_i hk
      refine List.pairwise_cons.mpr ⟨?_, ih h.2⟩
      intro b hb
      rcases mem_insertDue.mp hb with rfl | hb
      · omega
      · exact h.1 b hb
    · rename_i hk
      refine List.pairwise_cons.mpr ⟨?_, List.pairwise_cons.mpr h⟩
      intro b hb
      rcases List.mem_cons.mp hb with rfl | hb
      · omega
      · have := h.1 b hb; omega

theorem mem_insertSlot {i j : SlotId} {l : List SlotId} : j ∈ insertSlot i l ↔ j = i ∨ j ∈ l := by
  induction l with
  | nil => simp [insertSlot]
  | cons k rest ih =>
    unfold insertSlot
    split
    · simp
    · split
      · rename_i h; subst h; simp
      · simp only [List.mem_cons, ih]; tauto

/-! ### The frame of the scheduler's work -/

/-- Two states alike but for the slots, the scheduler's collections, the channels, event reports added and LOSS. -/
structure State.SchedulesFrom (s t : State) : Prop where
  port : t.port = s.port
  cmd : t.cmd = s.cmd
  time : t.time = s.time
  wall : t.wall = s.wall
  caps : t.caps = s.caps
  choices : t.choices = s.choices
  pending : t.pending = s.pending
  running : t.sched.state = s.sched.state
  reservations : t.reports.reservations = s.reports.reservations
  write : t.reports.write = s.reports.write
  irq : t.irq = s.irq ∨ t.irq = s.irq.setLoss
  records : ∃ added : List Report, t.reports.records = s.reports.records ++ added ∧
    ∀ r ∈ added, r.isCompletion = false

theorem State.OffersFrom.schedulesFrom {s t : State} (h : s.OffersFrom t) : s.SchedulesFrom t where
  port := h.port
  cmd := h.cmd
  time := h.time
  wall := h.wall
  caps := h.caps
  choices := h.choices
  pending := h.pending
  running := by rw [h.sched]
  reservations := h.reservations
  write := h.write
  irq := h.irq
  records := h.records

theorem State.SchedulesFrom.refl (s : State) : s.SchedulesFrom s := (State.OffersFrom.refl s).schedulesFrom

theorem State.SchedulesFrom.trans {s t u : State} (h : s.SchedulesFrom t) (k : t.SchedulesFrom u) :
    s.SchedulesFrom u where
  port := k.port.trans h.port
  cmd := k.cmd.trans h.cmd
  time := k.time.trans h.time
  wall := k.wall.trans h.wall
  caps := k.caps.trans h.caps
  choices := k.choices.trans h.choices
  pending := k.pending.trans h.pending
  running := k.running.trans h.running
  reservations := k.reservations.trans h.reservations
  write := k.write.trans h.write
  irq := by
    rcases h.irq with h | h <;> rcases k.irq with k | k <;> simp [k, h]
  records := by
    obtain ⟨as, ha, na⟩ := h.records
    obtain ⟨bs, hb, nb⟩ := k.records
    refine ⟨as ++ bs, by simp [hb, ha], ?_⟩
    intro r hr
    rcases List.mem_append.mp hr with hr | hr
    · exact na r hr
    · exact nb r hr

/-- A change of the slots, the collections and the channels alone. -/
theorem State.schedulesFrom_of {s t : State} (h : t = { s with slots := t.slots, sched := t.sched, chans := t.chans })
    (running : t.sched.state = s.sched.state) : s.SchedulesFrom t := by
  rw [h]
  refine ⟨rfl, rfl, rfl, rfl, rfl, rfl, rfl, ?_, rfl, rfl, .inl rfl, [], by simp, by simp⟩
  exact running

/-! ### Placing and removing -/

theorem setSlot_schedulesFrom (s : State) (i : SlotId) (x : Slot) : s.SchedulesFrom (s.setSlot i x) :=
  State.schedulesFrom_of rfl rfl

theorem setHeld_schedulesFrom (s : State) (i : SlotId) (h : Held) : s.SchedulesFrom (s.setHeld i h) :=
  State.schedulesFrom_of rfl rfl

theorem setChan_schedulesFrom (s : State) (ch : Fin 8) (c : Channel) : s.SchedulesFrom (s.setChan ch c) :=
  State.schedulesFrom_of rfl rfl

theorem uncollect_schedulesFrom (s : State) (i : SlotId) : s.SchedulesFrom (s.uncollect i) :=
  State.schedulesFrom_of rfl rfl

theorem markTaken_schedulesFrom (s : State) (i : SlotId) : s.SchedulesFrom (s.markTaken i) :=
  State.schedulesFrom_of rfl rfl

theorem pend_schedulesFrom (s : State) (i : SlotId) (h : Held) (due : Due) : s.SchedulesFrom (s.pend i h due) := by
  refine State.schedulesFrom_of rfl ?_
  cases due with
  | mk clock instant => cases clock <;> rfl

theorem watch_schedulesFrom (s : State) (i : SlotId) (h : Held) : s.SchedulesFrom (s.watch i h) :=
  State.schedulesFrom_of rfl rfl

theorem await_schedulesFrom (s : State) (i : SlotId) (h : Held) (k : Fin 4) : s.SchedulesFrom (s.await i h k) :=
  State.schedulesFrom_of rfl rfl

theorem idle_schedulesFrom (s : State) (i : SlotId) (h : Held) : s.SchedulesFrom (s.idle i h) :=
  State.schedulesFrom_of rfl rfl

theorem freeSlot_schedulesFrom (s : State) (i : SlotId) : s.SchedulesFrom (s.freeSlot i) :=
  State.schedulesFrom_of rfl rfl

theorem retire_schedulesFrom (s : State) (i : SlotId) (h : Held) : s.SchedulesFrom (s.retire i h) := by
  unfold State.retire
  split
  · exact freeSlot_schedulesFrom s i
  · exact idle_schedulesFrom s i h

theorem endRun_schedulesFrom (s : State) (i : SlotId) (h : Held) : s.SchedulesFrom (s.endRun i h) := by
  unfold State.endRun
  split
  · exact (uncollect_schedulesFrom s i).trans (await_schedulesFrom _ _ _ _)
  · exact retire_schedulesFrom s i h

theorem armSlot_schedulesFrom (s : State) (i : SlotId) (a : Action) (now : Nat) :
    s.SchedulesFrom (s.armSlot i a now) := by
  unfold State.armSlot
  dsimp only
  split
  · exact pend_schedulesFrom _ _ _ _
  · exact pend_schedulesFrom _ _ _ _
  · exact pend_schedulesFrom _ _ _ _
  · exact watch_schedulesFrom _ _ _
  · exact await_schedulesFrom _ _ _ _

theorem follow_schedulesFrom (s : State) (target : Handle) (completion : Nat) :
    s.SchedulesFrom (s.follow target completion).1 := by
  unfold State.follow
  split
  · exact .refl s
  · split
    · exact .refl s
    · split
      · exact armSlot_schedulesFrom _ _ _ _
      · exact .refl s

theorem followOf_schedulesFrom (s : State) (i : FireInst) (completion : Nat) :
    s.SchedulesFrom (s.followOf i completion).1 := by
  unfold State.followOf
  split
  · exact follow_schedulesFrom _ _ _
  · exact .refl s

/-! ### Taking occurrences -/

theorem offerIf_offersFrom (on : Bool) (s : State) (r : Report) (h : r.isCompletion = false) :
    s.OffersFrom (offerIf on s r) := by
  unfold offerIf
  split
  · exact offer_offersFrom s r h
  · exact .refl s

theorem completeEventOnly_schedulesFrom (s : State) (i : FireInst) : s.SchedulesFrom (completeEventOnly s i) := by
  unfold completeEventOnly
  exact (followOf_schedulesFrom s i s.mono).trans (offerDones_offersFrom _ _).schedulesFrom

theorem fireOccurrence_schedulesFrom (s : State) (a : Action) (o : Occurrence) (lateness : Nat) :
    s.SchedulesFrom (fireOccurrence s a o lateness) := by
  unfold fireOccurrence
  dsimp only
  split
  · exact ((setChan_schedulesFrom _ _ _).trans (offerDones_offersFrom _ _).schedulesFrom).trans
      (offerIf_offersFrom _ _ _ rfl).schedulesFrom
  · exact (offerIf_offersFrom _ _ _ rfl).schedulesFrom.trans (completeEventOnly_schedulesFrom _ _)

theorem fireOrSkip_schedulesFrom (s : State) (a : Action) (o : Occurrence) (lateness : Nat) :
    s.SchedulesFrom (fireOrSkip s a o lateness) := by
  unfold fireOrSkip
  split
  · exact fireOccurrence_schedulesFrom _ _ _ _
  · exact (offerIf_offersFrom _ _ _ rfl).schedulesFrom

theorem takeEntry_schedulesFrom (s : State) (i : SlotId) : s.SchedulesFrom (takeEntry s i) := by
  unfold takeEntry
  split
  · exact .refl s
  · split
    · exact .refl s
    · dsimp only
      refine State.SchedulesFrom.trans ?_ (fireOrSkip_schedulesFrom _ _ _ _)
      split
      · exact ((markTaken_schedulesFrom s i).trans (uncollect_schedulesFrom _ i)).trans (pend_schedulesFrom _ _ _ _)
      · exact ((markTaken_schedulesFrom s i).trans (uncollect_schedulesFrom _ i)).trans (endRun_schedulesFrom _ _ _)

theorem takeMatch_schedulesFrom (s : State) (m : Match) : s.SchedulesFrom (takeMatch s m) := by
  unfold takeMatch
  dsimp only
  split
  · exact .refl s
  · refine State.SchedulesFrom.trans ?_ (fireOrSkip_schedulesFrom _ _ _ _)
    have base : s.SchedulesFrom ((s.markTaken m.slot).setSched
        { (s.markTaken m.slot).sched with found := s.sched.found.filter (·.slot != m.slot) }) :=
      State.schedulesFrom_of rfl rfl
    split
    · exact base.trans (endRun_schedulesFrom _ _ _)
    · exact base.trans (setHeld_schedulesFrom _ _ _)

theorem takeOne_schedulesFrom (s : State) (t : Taking) : s.SchedulesFrom (takeOne s t) := by
  cases t with
  | entry i => exact takeEntry_schedulesFrom s i
  | found m => exact takeMatch_schedulesFrom s m

/-- An invariant of states that every taking keeps is kept by the taking of whatever is due (R35). -/
theorem takeLoop_induction {P : State → Prop} (keep : ∀ s t, P s → P (takeOne s t)) (fuel : Nat) (s : State) (h : P s) :
    P (takeLoop fuel s) := by
  induction fuel generalizing s with
  | zero => exact h
  | succ n ih =>
    unfold takeLoop
    split
    · exact h
    · exact ih _ (keep _ _ h)

theorem takeAll_induction {P : State → Prop} (keep : ∀ s t, P s → P (takeOne s t)) (s : State) (h : P s) :
    P (takeAll s) := by
  unfold takeAll
  split
  · exact takeLoop_induction keep 256 s h
  · exact h

theorem takeAll_schedulesFrom (s : State) : s.SchedulesFrom (takeAll s) :=
  takeAll_induction (P := fun t => s.SchedulesFrom t) (fun _ t h => h.trans (takeOne_schedulesFrom _ t)) s (.refl s)

/-- Nothing is taken while the scheduler is not RUNNING (R30, R33). -/
theorem takeAll_of_not_running (s : State) (h : s.sched.state ≠ .running) : takeAll s = s := by simp [takeAll, h]

/-- Nothing is taken when nothing is due. -/
theorem takeAll_of_none (s : State) (h : s.nextTaking s.wallReach = none) : takeAll s = s := by
  unfold takeAll
  split
  · simp [takeLoop, h]
  · rfl

/-- The first of some pattern occurrences is one of them. -/
theorem firstMatch_mem {l : List Match} {m : Match} (h : firstMatch l = some m) : m ∈ l := by
  induction l generalizing m with
  | nil => simp [firstMatch] at h
  | cons k rest ih =>
    unfold firstMatch at h
    split at h
    · simp_all
    · rename_i n hn
      split at h
      · cases h; exact List.mem_cons_of_mem _ (ih hn)
      · cases h; simp

/-- There is a first pattern occurrence unless there is none. -/
theorem firstMatch_eq_none {l : List Match} : firstMatch l = none ↔ l = [] := by
  cases l with
  | nil => simp [firstMatch]
  | cons k rest =>
    simp only [firstMatch, reduceCtorEq, iff_false]
    split
    · simp
    · split <;> simp

/-- A pattern occurrence that comes next is one of those found, of a member that has had none taken (R98, R105). -/
theorem dueMatch_found {s : State} {m : Match} (h : s.dueMatch = some m) :
    m ∈ s.sched.found ∧ m.slot ∈ s.sched.patterns ∧ m.slot ∉ s.sched.taken := by
  have := firstMatch_mem h
  simp only [List.mem_filter, Bool.and_eq_true, Bool.not_eq_true',
    List.contains_eq_mem, decide_eq_true_eq, decide_eq_false_iff_not] at this
  exact ⟨this.1, this.2.1, this.2.2⟩

/-- The offer of a second touches nothing but what has been found (R98). -/
theorem offerSecond_schedulesFrom (s : State) (second : Nat) : s.SchedulesFrom (s.offerSecond second) := by
  unfold State.offerSecond
  split
  · exact State.schedulesFrom_of rfl rfl
  · exact .refl s

/-- The offer of a second that no member matches changes nothing (R98). -/
theorem offerSecond_of_no_match (s : State) (second : Nat) (h : s.evaluate second = []) : s.offerSecond second = s := by
  unfold State.offerSecond
  split
  · rw [h, List.append_nil]; rfl
  · rfl

theorem changeSchedule_schedulesFrom (s : State) (forward : Bool) (landing : Option Nat) :
    s.SchedulesFrom (changeSchedule s forward landing) := by
  unfold changeSchedule
  split
  · split
    · exact takeAll_schedulesFrom s
    · exact .refl s
  · split
    · exact (offerSecond_schedulesFrom s _).trans (takeAll_schedulesFrom _)
    · exact .refl s

/-! ### Captures and the loss of wall time -/

theorem convertSlot_schedulesFrom (edge : Nat) (s : State) (i : SlotId) : s.SchedulesFrom (convertSlot edge s i) := by
  unfold convertSlot
  split
  · exact .refl s
  · split
    · exact (uncollect_schedulesFrom s i).trans (pend_schedulesFrom _ _ _ _)
    · exact .refl s

theorem loseSlot_schedulesFrom (s : State) (i : SlotId) : s.SchedulesFrom (loseSlot s i) := by
  unfold loseSlot
  split
  · exact .refl s
  · exact retire_schedulesFrom _ _ _

/-- A fold of operations each of which has the scheduler's frame. -/
theorem foldl_schedulesFrom {f : State → SlotId → State} (step : ∀ (s : State) (i : SlotId), s.SchedulesFrom (f s i)) (l : List SlotId)
    (s : State) : s.SchedulesFrom (l.foldl f s) := by
  induction l generalizing s with
  | nil => exact .refl s
  | cons i l ih => exact (step s i).trans (ih (f s i))

theorem convert_schedulesFrom (s : State) (k : Fin 4) (edge : Nat) : s.SchedulesFrom (convert s k edge) :=
  foldl_schedulesFrom (convertSlot_schedulesFrom edge) _ s

/-! ### What EXPIRY foresees -/

theorem withStep_of_none (s : State) (h : s.stepDue = false) : s.withStep = s := by
  unfold State.withStep; split <;> simp [h]

theorem withBoundary_of_none (s : State) (h : s.boundaryDue = false) : s.withBoundary = s := by
  simp [State.withBoundary, h]

/-- With neither a slew step nor a second boundary still to be taken, EXPIRY judges the state as it stands. -/
theorem foreseen_settled (s : State) (step : s.stepDue = false) (boundary : s.boundaryDue = false) : s.foreseen = s := by
  rw [State.foreseen, withStep_of_none s step, withBoundary_of_none s boundary]

/-- All that the slew step of this instant does to what EXPIRY judges: the offset and the slew's record. -/
theorem withStep_cases (s : State) :
    s.withStep = s ∨ ∃ w, s.wall.slew = some w ∧ s.stepDue = true ∧ s.withStep = s.stepped w := by
  unfold State.withStep
  split
  · next w h =>
    by_cases d : s.stepDue = true
    · exact .inr ⟨w, h, d, by simp [d]⟩
    · exact .inl (by simp [d])
  · exact .inl rfl

/-- All that the second boundary of this instant does to what EXPIRY judges: the occurrences it finds join those found. -/
theorem withBoundary_cases (s : State) :
    s.withBoundary = s ∨ s.boundaryDue = true ∧ s.withBoundary =
      { s with sched := { s.sched with found := s.sched.found ++ s.evaluate (wholeSecond s.wallNow) } } := by
  unfold State.withBoundary State.offerSecond
  split
  · next d =>
    split
    · exact .inr ⟨d, rfl⟩
    · exact .inl rfl
  · exact .inl rfl

end Sys2Proof.Machine
end

