-- ==== Sys2Proof/WellFormed.lean ====
section
/-! DEFINITION. The one check that the types of the operands do not make: a register write names a register. -/

namespace Sys2Proof

/-- Whether a command's operands are ones the part can be given: the offset of a REGISTER_WRITE is one at which
table 11.2 has a register. -/
def Instr.wellFormed : Instr → Bool
  | .registerWrite offset _ => (Reg.ofOffset offset).isSome
  | _ => true

end Sys2Proof
end

