-- ==== Sys2Proof/Tests/Slice0.lean ====
section
/-! SUPPORT. Tests: the WellFormed smoke test, small runs whose expected results are taken from the spec's worked
examples and tables, and for each obligation with hypotheses a witness that meets them. -/

namespace Sys2Proof.Machine.Tests

set_option Elab.async false

/-! ### Small states -/

/-- A record or descriptor from its first bytes, the rest 0. -/
def bytesOf (n : Nat) : List Nat → BitVec n
  | [] => 0
  | b :: bs => BitVec.ofNat n b ||| (bytesOf n bs <<< 8)

/-- A command in hand, from its first bytes, fetched from ring index 3. -/
def inHand (bs : List Nat) : InHand := { record := bytesOf 256 bs, index := 3 }

/-- The port RUNNING with rings of 16 entries, one reservation held, mono time 5,000. -/
def served : State :=
  { State.reset with
    port := { Port.reset with state := .running, crSize := 16, rrBase := 4096, rrSize := 16 }
    reports := { ReportQueue.reset with reservations := 1 }
    time := { Timebase.reset with mono := 5000 } }

/-- Wall time RUNNING besides, at wall instant 10 x 2^20 + 500. -/
def walled : State := { served with wall := { Wall.reset with state := .running, offset := 10481260, lastSecond := 10 } }

def holding (s : State) (bs : List Nat) : State := { s with cmd := { s.cmd with state := .holding (inHand bs) } }

def reading (s : State) (bs : List Nat) : State := { s with cmd := { s.cmd with state := .reading (inHand bs) } }

def withPort (s : State) (p : PortState) : State := { s with port := { s.port with state := p } }

def withSched (s : State) (x : SchedState) : State := { s with sched := { s.sched with state := x } }

def withDisc (s : State) (d : Discipline) : State := { s with time := { s.time with disc := d } }

def withMono (s : State) (n : Nat) : State := { s with time := { s.time with mono := n } }

/-- An action with count 1, no period and no channel. -/
def act (t : Trigger) : Action :=
  { trigger := t, period := none, count := 1, lateLimit := 0, latePolicy := .fireLate, output := none, busy := .queue,
    fireReports := true, doneReports := false, autoRelease := false, tag := 7, followOn := none }

/-- The same on channel 0, with an operation. -/
def actOn (t : Trigger) (op : Operation) : Action := { act t with output := some { channel := 0, operation := op } }

/-- A slot's contents for an action, at the beginning of a run. -/
def heldAs (a : Action) (state : SlotState) (due : Option Due) : Held := a.begun state due

/-- An every-second pattern. -/
def everySecond : Pattern :=
  { second := none, minute := none, hour := none, day := .any, months := 0xFFF, weekdays := 0x7F }

/-- A fire instance of handle 0:2 on channel 0. -/
def inst (op : Operation) : FireInst :=
  { handle := ⟨0, 2⟩, tag := 7, output := some { channel := 0, operation := op }, busy := .queue, fireReports := true,
    doneReports := true, followOn := none, fireInstant := 4000, lateness := 0 }

/-- A running instance whose phase ends at mono 5,000. -/
def running (i : FireInst) (pulses : Nat) : Running := { inst := i, start := 4000, pulses := pulses, phaseEnd := 5000 }

/-- Channel 0 running an instance. -/
def onChan (s : State) (state : ChanState) (r : Running) (queue : List FireInst) : State :=
  s.withChan 0 { state := state, level := .low, parked := .low, running := some r, queue := queue }

/-- The state after a command, or before it where the command stops. -/
def after (i : Instr) (s : State) : State :=
  match exec i s with
  | .next t => t
  | _ => s

/-- The slot and the collections of a state that holds one action, in slot 0 with generation 2. -/
def placed (s : State) (x : Held) : State :=
  { s with
    slots := (Vector.replicate 256 Slot.reset).set 0 { gen := 2, held := some x }
    sched :=
      { s.sched with
        monoDue := if x.state = .pending ∧ x.nextDue.any (fun d => d.clock == .mono) = true then [0] else []
        wallDue := if x.state = .pending ∧ x.nextDue.any (fun d => d.clock == .wall) = true then [0] else []
        patterns := if x.state = .watching then [0] else []
        waits := match x.state, x.action.trigger with
          | .waiting, .onCapture k _ _ => (Vector.replicate 4 []).set k.val [0]
          | _, _ => Vector.replicate 4 [] } }

/-- What a held slot must be for its collections to be sound. -/
def heldOk (x : Held) : Bool :=
  x.state != .free && (x.state == .pending) == x.nextDue.isSome &&
  (match x.action.trigger with
    | .atWall _ => x.nextDue.all (fun d => d.clock == .wall) && x.state != .watching && x.state != .waiting
    | .pattern _ => x.nextDue.isNone && x.state != .waiting
    | .onCapture .. => x.nextDue.all (fun d => d.clock == .mono) && x.state != .watching
    | _ => x.nextDue.all (fun d => d.clock == .mono) && x.state != .watching && x.state != .waiting)

theorem placed_slot (s : State) (x : Held) (i : SlotId) :
    (placed s x).slot i = if i = 0 then { gen := 2, held := some x } else Slot.reset := by
  by_cases h : i = 0
  · subst h; simp [placed, State.slot]
  · have : (0 : Nat) ≠ i.val := fun e => h (Fin.ext e.symm)
    simp [placed, State.slot, h, this]

theorem placed_held (s : State) (x h : Held) (i : SlotId) : ((placed s x).slot i).held = some h ↔ i = 0 ∧ x = h := by
  rw [placed_slot]; by_cases e : i = 0 <;> simp [e, Slot.reset]

theorem atMostOne (R : SlotId → SlotId → Prop) (p : Prop) [Decidable p] : List.Pairwise R (if p then [0] else []) := by
  split
  · exact List.pairwise_singleton R 0
  · exact List.Pairwise.nil

theorem placed_sound (s : State) (x : Held) (ok : heldOk x = true)
    (apt : (s.sched.found.isEmpty && (s.wall.active || !x.action.trigger.wallBound)) = true) :
    (placed s x).CollectionsSound := by
  obtain ⟨action, state, nextDue, remaining, fired, lastFired⟩ := x
  obtain ⟨trigger, period, count, lateLimit, latePolicy, output, busy, f, d, a, tag, fo⟩ := action
  constructor
  case mono | wall =>
    clear apt
    intro i; simp only [placed_held]
    rcases nextDue with _ | ⟨clock, n⟩ <;> cases state <;> cases trigger <;> (try cases clock) <;>
      simp_all [placed, heldOk]
  case patterns =>
    clear apt
    intro i; simp only [placed_held]
    cases state <;> simp_all [placed, heldOk]
  case waits =>
    clear apt
    intro k i; simp only [placed_held]
    rcases nextDue with _ | ⟨clock, n⟩ <;> cases state <;> cases trigger <;> simp_all [placed, heldOk]
    rename_i k' _ _
    by_cases e : k' = k
    · subst e; simp
    · have : k'.val ≠ k.val := fun h => e (Fin.ext h)
      simp [e, this]
  case held =>
    clear apt
    intro i h; simp only [placed_held]; rintro ⟨-, rfl⟩
    rcases nextDue with _ | ⟨clock, n⟩ <;> cases state <;> simp_all [heldOk]
  case watching =>
    clear apt
    intro i h; simp only [placed_held]; rintro ⟨-, rfl⟩
    cases state <;> cases trigger <;> simp_all [heldOk, Trigger.isPattern]
  case waiting =>
    clear apt
    intro i h; simp only [placed_held]; rintro ⟨-, rfl⟩
    cases state <;> cases trigger <;> simp_all [heldOk]
  case wallBound | monoBound =>
    clear apt
    intro i h n; simp only [placed_held]; rintro ⟨-, rfl⟩
    rcases nextDue with _ | ⟨clock, n⟩ <;> cases state <;> cases trigger <;> (try cases clock) <;>
      simp_all [heldOk, Trigger.wallBound]
  case once =>
    clear apt
    refine ⟨?_, ?_, ?_, ?_⟩
    · simp only [placed]; split <;> simp
    · simp only [placed]; split <;> simp
    · simp only [placed]; split <;> simp
    · intro k; cases state <;> cases trigger <;> simp [placed]
      rename_i k' _ _
      by_cases e : k'.val = k.val
      · simp [e]
      · simp [e]
  case ordered =>
    clear apt
    exact ⟨atMostOne _ _, atMostOne _ _⟩
  case unset =>
    intro h
    have u : s.wall.active = false := by
      have w : s.wall.state = .unset := h
      simp [Wall.active, w]
    simp only [u, Bool.false_or, Bool.and_eq_true] at apt
    obtain ⟨-, apt⟩ := apt
    clear h u
    rcases nextDue with _ | ⟨clock, n⟩ <;> cases state <;> cases trigger <;> (try cases clock) <;>
      simp_all [placed, heldOk, Trigger.wallBound]
  case found | foundOnce =>
    have e : s.sched.found = [] := by
      rw [Bool.and_eq_true] at apt; exact List.isEmpty_iff.mp apt.1
    simp [placed, e]

/-! ### Syntax and decoding -/

theorem test_wellFormed_control : (Instr.registerWrite 0x08 0).wellFormed = true := by decide

theorem test_illFormed_hole : (Instr.registerWrite 0x44 0).wellFormed = false := by decide

theorem test_illFormed_unaligned : (Instr.registerWrite 0x09 0).wellFormed = false := by decide

theorem test_no_word_spells_a_command : decodeTableWord 32 0 = none := rfl

theorem test_control_write_is_softReset : instrOfWrite .control 3 = .softReset true := by decide

theorem test_control_write_is_enable : instrOfWrite .control 1 = .enableWrite1 := by decide

/-! ### Runs with results from the spec -/

/-- R168. -/
theorem test_nop_ok : (after .nop (holding served [0x00])).reports.records = [(inHand [0x00]).answer .ok none .none] := by
  decide +kernel

/-- R168: the opcode is returned as given. -/
theorem test_badOpcode : (after .badOpcode (holding served [0x13])).reports.records =
    [(inHand [0x13]).answer .badOpcode none .none] := by decide +kernel

/-- R171: 64 bytes at 0xFFFFFFC1 cannot be addressed. -/
theorem test_define_fault :
    (after .defineAction (holding served [0x01, 0, 0, 0, 0xC1, 0xFF, 0xFF, 0xFF])).cmd.state = .idle := by decide +kernel

/-- R13: with slot 0 held, slot 1 is the lowest FREE slot. -/
theorem test_descriptor_fills_slot_1 :
    ((after (.descriptorReadEnd (.data (bytesOf 512
      [2, 0, 0, 0, 255, 0, 0, 0, 5, 0, 0, 0, 0, 0, 0, 0, 0, 0, 0, 0, 0, 0, 0, 0, 1])))
      (reading (placed served (heldAs (act (.after 1)) .idle none)) [0x01])).slot 1).state = .idle := by decide +kernel

/-- R15: an AFTER due is mono now plus the delay. -/
theorem test_arm_after :
    ((after .arm (holding (placed served (heldAs (act (.after 9)) .idle none)) [0x02, 0, 0, 0, 0, 2])).slot 0).held.bind
      Held.nextDue = some ⟨.mono, 5009⟩ := by decide +kernel

/-- R16: a PENDING slot is IDLE after DISARM, and out of its list. -/
theorem test_disarm :
    (after .disarm (holding (placed served (heldAs (act (.after 9)) .pending (some ⟨.mono, 6000⟩)))
      [0x03, 0, 0, 0, 0, 2])).sched.monoDue = [] := by decide +kernel

/-- R18, R3. -/
theorem test_release :
    (after .release (holding (placed served (heldAs (act (.after 9)) .idle none)) [0x04, 0, 0, 0, 0, 2])).slot 0 =
      { gen := 3, held := none } := by decide +kernel

/-- R4: generation 1 is not live where the slot's is 2. -/
theorem test_query_stale : (after .queryAction (holding (placed served (heldAs (act (.after 9)) .idle none))
    [0x05, 0, 0, 0, 0, 1])).reports.records =
      [(inHand [0x05, 0, 0, 0, 0, 1]).answer .badHandle none (.handleOnly ⟨0, 1⟩)] := by decide +kernel

/-- R31. -/
theorem test_suspend : (after .suspend (holding served [0x06])).sched.state = .suspended := by decide +kernel

/-- R32. -/
theorem test_resume : (after .resume (holding (withSched served .suspended) [0x07])).sched.state = .running := by
  decide +kernel

/-- R72: wall time is absent while UNSET. -/
theorem test_readTime : (after .readTime (holding served [0x08])).reports.records =
    [(inHand [0x08]).answer .ok none (.time { mono := 5000, wall := none, state := .unset, disc := .off })] := by
  decide +kernel

/-- R71: 2000-01-01 00:00:00 is wall second 0, a Saturday. -/
theorem test_calendar_begin : calendarOfSecond 0 =
    { year := 2000, month := 1, day := 1, hour := 0, minute := 0, second := 0, weekday := 6 } := by decide +kernel

/-- R71: the last wall second is 2099-12-31 23:59:59. -/
theorem test_calendar_end : secondOfCalendar
    { year := 2099, month := 12, day := 31, hour := 23, minute := 59, second := 59, weekday := 0 } = 3155759999 := by
  decide +kernel

/-- R74: 2000-01-01 00:00:02 and fraction 5. -/
theorem test_setTime :
    (after .setTime (holding served [0x09, 0, 0, 0, 0xD0, 0x07, 1, 1, 0, 0, 2, 0, 5])).wallNow = 2097157 := by
  decide +kernel

/-- R75: a delta of -1. -/
theorem test_stepTime_back :
    (after .stepTime (holding walled [0x0A, 0, 0, 0, 0, 0, 0, 0, 255, 255, 255, 255, 255, 255, 255, 255])).wallNow =
      10486259 := by decide +kernel

/-- R77: the next step is 1,024 FU later. -/
theorem test_adjustTime : (after .adjustTime (holding walled [0x0B, 0, 0, 0, 0, 0, 0, 0, 3])).wall.slew =
    some { delta := 3, remainder := 3, applied := 0, nextStep := 6024 } := by decide +kernel

/-- R81: the text's own example, 31,008,704 FU into a minute, rounds down. -/
theorem test_minute_rounds_down : SnapUnit.minute.round 31008704 = 0 := by decide

/-- R81: half a second rounds up. -/
theorem test_half_second_rounds_up : SnapUnit.second.round 524288 = 1048576 := by decide

/-- R65: mode ON enters ACQUIRE. -/
theorem test_configReference :
    (after .configReference (holding served [0x0D, 0, 0, 0, 1, 0, 16, 0, 2, 2, 0, 0, 0, 0, 0, 0x80])).time.disc.state =
      .acquire := by decide +kernel

/-- R127: an enabled channel shows its initial level. -/
theorem test_configChannel :
    ((after .configChannel (holding served [0x0E, 0, 0, 0, 2, 1, 1, 0])).chan 2).line = .high := by decide +kernel

/-- R128: the front of the queue does not start. -/
theorem test_flushChannel :
    ((after .flushChannel (holding (onChan served .pulse (running (inst (.train 5 5 2)) 1) [inst .toggle])
      [0x0F, 0, 0, 0, 0])).chan 0).running = none := by decide +kernel

/-- R145: the filtered level is the line level. -/
theorem test_configCapture :
    ((after .configCapture (holding { served with caps := Vector.replicate 4 (Capture.reset .high) }
      [0x11, 0, 0, 0, 1, 1, 2, 0, 9])).cap 1).filtered = .high := by decide +kernel

/-- R158: a value of CR_SIZE halts. -/
theorem test_crTail_range : (after (.crTailWrite 16) served).port.faultCode = .tailRange := by decide +kernel

/-- R159, section 8.6: with RR_HEAD 0 and RR_TAIL 15 of 16, 10 is accepted. -/
theorem test_rrHead_accepts :
    (after (.rrHeadWrite 10) { served with port := { served.port with rrTail := 15 } }).port.rrHead = 10 := by
  decide +kernel

/-- R185, section 8.6: RR_TAIL wraps from 15 to 0 and the phase flips. -/
theorem test_phase_flips :
    let s := { served with
      port := { served.port with rrTail := 15, rrHead := 10 }
      reports := { served.reports with records := [.overflow 1 0], write := some ⟨4576, 15, true, 0⟩ } }
    (after (.reportWriteEnd false) s).port.rrTail = 0 ∧ (after (.reportWriteEnd false) s).port.phase = false := by
  decide +kernel

/-- R157: the fault address of a failing fetch of entry 2 at base 64. -/
theorem test_fetch_error :
    (after (.fetchEnd .error)
      { served with port := { served.port with crBase := 64, crHead := 2, fetch := some 128 } }).port.faultAddr = 128 := by
  decide +kernel

/-- R152: a base of 32 is no multiple of 64. -/
theorem test_enable_names_base :
    (after .enableWrite1 { withPort served .disabled with port := { served.port with state := .disabled, crBase := 32 } }).port.configError =
      .crBase := by decide +kernel

/-- R155: nothing outstanding. -/
theorem test_drain_at_once :
    (after .enableWrite0 { served with reports := .reset }).port.state = .disabled := by decide +kernel

/-- R24. -/
theorem test_softReset_frees :
    (after (.softReset false) (placed served (heldAs (act (.after 9)) .idle none))).slot 0 = { gen := 3, held := none } := by
  decide +kernel

/-- R191: INT_ENABLE is kept. -/
theorem test_softReset_keeps_enable :
    (after (.softReset true) { served with irq := { Irq.reset with enable := ⟨true, false, true⟩ } }).irq.enable =
      ⟨true, false, true⟩ := by decide +kernel

/-- R189: the second of two counted records sets REPORTS. -/
theorem test_moderation_threshold :
    (({ Irq.reset with threshold := 2, count := 1, start := some 4 } : Irq).countWritten 9).status.reports = true := by
  decide

/-- R188. -/
theorem test_int_line : ({ Irq.reset with status := ⟨true, true, false⟩, enable := ⟨false, true, false⟩ } : Irq).line =
    .high := by decide

/-- R148: a base register is not stored while RUNNING. -/
theorem test_registerWrite_running : after (.registerWrite 0x18 64) served = served := by decide +kernel

/-- R164. -/
theorem test_powerOn_lines :
    ((after (.powerOnReset #v[.low, .high, .low, .low]) served).cap 1).filtered = .high := by decide +kernel

/-- R60: an edge 3 FU late in LOCKED adds 48 to the trim. -/
theorem test_refEdge_trim :
    (after .refEdge (withDisc served { Discipline.reset with state := .locked, expect := some 4997 })).time.trim = 48 := by
  decide +kernel

/-- R60: the third miss of three enters HOLDOVER. -/
theorem test_windowClose_holdover :
    (after .windowClose (withDisc served
      { Discipline.reset with state := .locked, window := 16, expect := some 4983, miss := 2 })).time.disc.state =
      .holdover := by decide +kernel

/-- R54, R134, R147: the lines are sampled at the reset's end, which is mono instant 0. -/
theorem test_no_transition_at_instant_0 : after (.transition 2) State.reset = State.reset := by decide +kernel

/-- R160, R184: the event that answers a command starts the write of its completion, and the next fetch. -/
theorem test_answer_starts_write_and_fetch :
    let s := after .nop (holding { served with port := { served.port with crTail := 5, crHead := 4 } } [0x00])
    s.reports.write.map ReportWrite.address = some 4096 ∧ s.port.fetch = some 128 ∧ s.reports.reservations = 1 := by
  decide +kernel

/-- R135: the acceptance instant is the transition instant plus the filter time. -/
theorem test_transition_candidate :
    ((after (.transition 2) (served.withCap 2 { Capture.reset .low with on := true, filter := 200 })).cap 2).candidate =
      some { level := .high, instant := 5000, acceptAt := 5200 } := by decide +kernel

/-- R137: the edge instant is recorded, not the acceptance instant. -/
theorem test_acceptance_records :
    ((after (.acceptance 2) (served.withCap 2
      { Capture.reset .low with
        on := true, line := .high, filter := 200, candidate := some ⟨.high, 4800, 5000⟩ })).cap 2).last =
      some ⟨4800, .rising⟩ := by decide +kernel

/-- R38, R40: period 1,024, due 5,000 - 2,500, so two occurrences are missed and the next due is in phase. -/
theorem test_expiry_in_phase :
    let a := { act (.after 1) with period := some 1024, count := 0 }
    ((after .expiry (placed served (heldAs a .pending (some ⟨.mono, 2500⟩)))).slot 0).held.bind Held.nextDue =
      some ⟨.mono, 5572⟩ := by decide +kernel

/-- R102, R104: the boundary's second is the last-fired one. -/
theorem test_boundary_fires :
    ((after .expiry (after .runningSecondBoundary { placed walled (heldAs { act (.pattern everySecond) with count := 0 } .watching none) with
      wall := { walled.wall with lastSecond := 9 } })).slot 0).held.bind Held.lastFired = some 10 := by decide +kernel

/-- R78: a step back. -/
theorem test_slewStep :
    (after .slewStep { walled with wall :=
      { walled.wall with state := .slewing, slew := some ⟨-3, -2, -1, 5000⟩ } }).wall.offset = 10481259 := by decide +kernel

/-- R85. -/
theorem test_waitEnd :
    (after .waitEnd { walled with wall := { walled.wall with snap := some ⟨.second, 5000⟩ } }).wall.snap = none := by
  decide +kernel

/-- R88. -/
theorem test_rangeEnd :
    (after .rangeEnd { walled with wall := { walled.wall with offset := 3309054197754999 } }).wall.state = .unset := by
  decide +kernel

/-- R117: the second pulse of two. -/
theorem test_phaseEnd_next_pulse :
    ((after (.phaseEnd 0) (onChan served .space (running (inst (.train 5 7 2)) 1) [])).chan 0).running.map
      Running.phaseEnd = some 5005 := by decide +kernel

/-- R118: the waiting TOGGLE starts when the train completes. -/
theorem test_phaseEnd_starts_next :
    ((after (.phaseEnd 0) (onChan served .space (running (inst (.train 5 7 2)) 2) [inst .toggle])).chan 0).level = .high := by
  decide +kernel

/-- R189. -/
theorem test_moderationExpiry :
    (after .moderationExpiry { served with irq :=
      { Irq.reset with threshold := 9, time := 1, count := 1, start := some 3976 } }).irq.status.reports = true := by
  decide +kernel

/-- R55. -/
theorem test_exhaustion : (after .monoExhaustion (withMono served 4503599627370495)).port.faultCode = .timelineEnd := by
  decide +kernel

/-- R53: a residue of 2^26 - 1 and a trim of 1 make a fine unit of 17 cycles. -/
theorem test_fineUnit_insert :
    let s := { served with time := { served.time with residue := 67108863, trim := 1 } }
    (after .fineUnit s).time.unitLength = 17 ∧ (after .fineUnit s).time.mono = 5001 := by decide +kernel

/-- R183: with margin 1 the OVERFLOW record is accepted and the report dropped. -/
theorem test_overflow_margin_1 :
    (offer { served with reports :=
      { served.reports with records := List.replicate 30 (.overflow 1 0), lost := 4 } } (.capture ⟨0, .rising, 1, none, 1⟩)).reports.lost =
      1 := by decide +kernel

/-- R21, R20: a follow-on to an IDLE AFTER action is ARMED at the completion instant plus the delay. -/
theorem test_followOn_armed :
    ((after (.phaseEnd 0) (onChan (placed served (heldAs (act (.after 30)) .idle none)) .space
      (running { inst .setHigh with followOn := some ⟨0, 2⟩ } 0) [])).slot 0).held.bind Held.nextDue =
      some ⟨.mono, 5030⟩ := by decide +kernel

/-- Table 11.5: a FIRE report's first bytes. -/
theorem test_report_bytes :
    byteAt ((Report.fire ⟨⟨5, 6⟩, 0, ⟨.mono, 9⟩, 9, 0, 0, .limited 0, true⟩ false .noChannel).bytes true) 1 = 0x85 := by
  decide +kernel

/-! ### Witnesses: states and operands that meet the hypotheses of the obligations -/

/-- A command whose first byte is the opcode given, held by the command unit. -/
theorem holding_holds (s : State) (bs : List Nat) (opcode : Byte) (h : byteAt (inHand bs).record 0 = opcode) :
    (holding s bs).holds (inHand bs) opcode := ⟨rfl, h⟩

/-- One action in slot 0, in the state given, on top of `walled`. -/
def one (t : Trigger) (state : SlotState) (due : Option Due) : State := placed walled (heldAs (act t) state due)

/-- A descriptor: an AFTER trigger with delay 5, no channel, count 1. -/
def afterFive : Descriptor := bytesOf 512 [2, 0, 0, 0, 255, 0, 0, 0, 5, 0, 0, 0, 0, 0, 0, 0, 0, 0, 0, 0, 0, 0, 0, 0, 1]

/-- The discipline LOCKED and expecting an edge at an instant. -/
def locked (x : Nat) : Discipline := { Discipline.reset with state := .locked, expect := some x }

/-- A table with no FREE slot. -/
def full : State := { served with slots := Vector.replicate 256 { gen := 2, held := some (heldAs (act (.after 9)) .idle none) } }

/-- A slew in flight with its deferred command. -/
def slewing (w : Slew) : State :=
  { walled with
    wall := { walled.wall with state := .slewing, slew := some w }
    cmd := { walled.cmd with adjust := some { tag := 9, index := 1 } } }

/-- A SNAP pending with its deferred command. -/
def snapping (s : State) (n : Snap) : State :=
  { s with wall := { s.wall with snap := some n }, cmd := { s.cmd with snap := some { tag := 8, index := 2 } } }

/-- A ring of 16 entries at 4,096 for both rings, the port DISABLED. -/
def ringed : State := withPort { served with reports := .reset } .disabled

theorem witness_StepRunsTheFrontCommand :
    ({ served with pending := [.nop, .fineUnit] } : State).pending = .nop :: [.fineUnit] := rfl

theorem witness_MonoRisesByFineUnitsAlone : (∃ t, exec .fineUnit served = .next t) ∧ ∃ t, exec .nop served = .next t :=
  ⟨⟨_, rfl⟩, _, rfl⟩

theorem witness_GenerationChangesWhenTheSlotIsFreed :
    (∀ lines, Instr.release ≠ .powerOnReset lines) ∧
      ∃ t, exec .release (holding (one (.after 9) .idle none) [0x04, 0, 0, 0, 0, 2]) = .next t :=
  ⟨fun _ h => by (cases h), _, rfl⟩

theorem witness_OnlyAResetLeavesHalted :
    (withPort served .halted).port.state = .halted ∧ (∃ t, exec .enableWrite1 (withPort served .halted) = .next t) ∧
      (∀ lines, Instr.enableWrite1 ≠ .powerOnReset lines) ∧ (∀ enable, Instr.enableWrite1 ≠ .softReset enable) ∧
      ∀ v : Word, v.getLsbD 1 = true → Instr.enableWrite1 ≠ .registerWrite 0x08 v :=
  ⟨rfl, ⟨_, rfl⟩, fun _ h => by (cases h), fun _ h => by (cases h), fun _ _ h => by cases h⟩

theorem witness_ReportQueueNeverOverfills :
    (holding served [0x00]).QueueSound ∧ ∃ t, exec .nop (holding served [0x00]) = .next t :=
  ⟨by constructor <;> decide +kernel, _, rfl⟩

/-- The timebase of `served` with a LOCKED discipline is sound, whatever instant is expected. -/
theorem locked_sound (x : Nat) : (withDisc served (locked x)).time.Sound where
  mono := show (5000 : Nat) ≤ 2 ^ 52 - 1 by omega
  exhausted := nofun
  trim := show (-262144 : Int) ≤ 0 ∧ (0 : Int) ≤ 262144 by omega
  residue := show (-2 ^ 26 : Int) < 0 ∧ (0 : Int) < 2 ^ 26 by omega
  unitLength := .inr (.inl rfl)
  disc := by constructor <;> simp [withDisc, locked, Discipline.reset]

theorem witness_TimebaseStaysInRange :
    (withDisc served (locked 4997)).time.Sound ∧ ∃ t, exec .refEdge (withDisc served (locked 4997)) = .next t :=
  ⟨locked_sound 4997, _, rfl⟩

/-- A channel in its second pulse with one waiting instance. -/
def pulsing : Channel :=
  { state := .pulse, level := .low, parked := .low, running := some (running (inst (.train 5 7 2)) 2),
    queue := [inst .toggle] }

theorem pulsing_sound : pulsing.Sound :=
  { resting := by simp [pulsing], alone := nofun, room := by decide, pulsing := fun _ => ⟨_, 5, 7, 2, rfl, rfl⟩ }

theorem witness_ChannelsStayCoherent :
    (∀ ch, ((onChan served .pulse (running (inst (.train 5 7 2)) 2) [inst .toggle]).chan ch).Sound) ∧
      ∃ t, exec (.phaseEnd 0) (onChan served .pulse (running (inst (.train 5 7 2)) 2) [inst .toggle]) = .next t := by
  refine ⟨fun ch => ?_, _, rfl⟩
  by_cases h : ch = 0
  · subst h
    have : (onChan served .pulse (running (inst (.train 5 7 2)) 2) [inst .toggle]).chan 0 = _ :=
      State.chan_setChan_self served 0 _
    rw [this]
    exact pulsing_sound
  · have e : (onChan served .pulse (running (inst (.train 5 7 2)) 2) [inst .toggle]).chan ch = served.chan ch :=
      State.chan_setChan_of_ne served _ h
    rw [e]
    have r : served.chan ch = Channel.reset := by
      show (Vector.replicate 8 Channel.reset)[ch.val] = _
      simp
    rw [r]
    constructor <;> simp [Channel.reset]

theorem witness_CaptureFiltersStayCoherent :
    (∀ k, (served.cap k).Sound) ∧ ∃ t, exec (.transition 1) served = .next t := by
  refine ⟨fun k => ?_, _, rfl⟩
  have r : served.cap k = Capture.reset .low := by
    show ((Vector.replicate 4 Level.low).map Capture.reset)[k.val] = _
    simp
  rw [r]
  constructor <;> simp [Capture.reset]

theorem witness_SlotsStandWhereTheirStateSays :
    (one (.after 9) .pending (some ⟨.mono, 5000⟩)).CollectionsSound ∧
      ∃ t, exec .expiry (one (.after 9) .pending (some ⟨.mono, 5000⟩)) = .next t :=
  ⟨placed_sound _ _ (by decide) (by decide), _, rfl⟩

theorem witness_RingIndicesStayInRange :
    served.port.state.serving ∧ served.port.RingsSound served.reports.write.isSome ∧
      (∃ t, exec (.crTailWrite 15) served = .next t) ∧ (after (.crTailWrite 15) served).port.state.serving := by
  refine ⟨.inl rfl, ?_, ⟨_, rfl⟩, by decide +kernel⟩
  constructor
  case crSize | rrSize => exact ⟨⟨4, by decide +kernel⟩, by decide +kernel⟩
  all_goals decide +kernel

theorem witness_NopAndUnknownOpcodeAreAnswered :
    (holding served [0x00]).cmd.state = .holding (inHand [0x00]) ∧ byteAt (inHand [0x00]).record 0 = 0x00 ∧
      0x12 < (byteAt (inHand [0x13]).record 0).toNat := by decide +kernel

theorem witness_DefineActionIssuesTheRead :
    (holding served [0x01, 0, 0, 0, 0xC0, 0xFF, 0xFF, 0xFF]).holds (inHand [0x01, 0, 0, 0, 0xC0, 0xFF, 0xFF, 0xFF]) 0x01 ∧
      (le32 (inHand [0x01, 0, 0, 0, 0xC0, 0xFF, 0xFF, 0xFF]).record 4).toNat + 64 = 2 ^ 32 ∧
      2 ^ 32 < (le32 (inHand [0x01, 0, 0, 0, 0xC1, 0xFF, 0xFF, 0xFF]).record 4).toNat + 64 := by decide +kernel

theorem ok_of (x : Except Nat Action) (a : Action) (h : x.toOption = some a) : x = .ok a := by
  cases x <;> simp_all [Except.toOption]

/-- The field that a validation names, if it refuses. -/
def refusedField : Except Nat Action → Option Nat
  | .error n => some n
  | .ok _ => none

theorem error_of (x : Except Nat Action) (n : Nat) (h : refusedField x = some n) : x = .error n := by
  cases x <;> simp_all [refusedField]

/-- Descriptors, each refused for the field beside it. -/
theorem errors_of (l : List (Descriptor × Nat))
    (h : l.all (fun p => refusedField (validateDescriptor p.1) == some p.2) = true) :
    ∀ p ∈ l, validateDescriptor p.1 = .error p.2 := fun p m =>
  error_of _ _ (by simpa using List.all_eq_true.mp h p m)

theorem witness_DescriptorReadEndFillsASlotOrIsRefused :
    (reading (one (.after 9) .idle none) [0x01]).cmd.state = .reading (inHand [0x01]) ∧
      validateDescriptor afterFive = .ok { act (.after 5) with fireReports := false, tag := 0 } ∧
      ((reading (one (.after 9) .idle none) [0x01]).slot 1).held = none ∧
      (∀ j : SlotId, j < 1 → ((reading (one (.after 9) .idle none) [0x01]).slot j).held ≠ none) ∧
      validateDescriptor (bytesOf 512 [5]) = .error 1 ∧
      (∀ i, ((reading full [0x01]).slot i).held ≠ none) ∧ served.cmd.state = .idle := by
  refine ⟨rfl, ok_of _ _ (by decide +kernel), by decide +kernel, ?_, error_of _ _ (by decide +kernel), ?_, rfl⟩
  · decide +kernel
  · intro i
    have : (reading full [0x01]).slot i = { gen := 2, held := some (heldAs (act (.after 9)) .idle none) } := by
      show (Vector.replicate 256 _)[i.val] = _
      simp
    simp [this]

/-- A descriptor of an AFTER action with delay 5 and count 1, with a late policy, channel, operation and busy policy. -/
def policies (late channel operation busy : Nat) : Descriptor :=
  bytesOf 512 [2, 0, 0, late, channel, operation, busy, 0, 5, 0, 0, 0, 0, 0, 0, 0, 0, 0, 0, 0, 0, 0, 0, 0, 1]

theorem witness_DescriptorIsValidatedFieldByField :
    validateDescriptor afterFive = .ok { act (.after 5) with fireReports := false, tag := 0 } ∧
      ∀ p ∈ [(bytesOf 512 [5], 1), (bytesOf 512 [4, 4], 2),
          (bytesOf 512 [2, 0, 0, 0, 0, 0, 0, 0, 0, 0, 0, 0, 0, 0, 0, 0, 1], 3), (bytesOf 512 [2], 4), (policies 2 0xFF 0 0, 6),
          (policies 1 8 0 0, 7), (policies 1 0xFF 1 0, 8), (policies 1 7 3 4, 9)],
        validateDescriptor p.1 = .error p.2 :=
  ⟨ok_of _ _ (by decide +kernel), errors_of _ (by decide +kernel)⟩

/-- An ARM of slot 0, generation 2. -/
def armCmd : List Nat := [0x02, 0, 0, 0, 0, 2]

theorem witness_ArmPlacesByTrigger :
    (∀ t : Trigger, (holding (one t .idle none) armCmd).holds (inHand armCmd) 0x02 ∧
      ((holding (one t .idle none) armCmd).slot 0).gen = 2 ∧
      ((holding (one t .idle none) armCmd).slot 0).held = some (heldAs (act t) .idle none)) ∧
    handleAt (inHand armCmd).record 4 = ⟨0, 2⟩ ∧
    (holding (one (.atWall 10486261) .idle none) armCmd).wall.state ≠ .unset := by
  refine ⟨fun t => ⟨⟨rfl, by decide +kernel⟩, ?_, ?_⟩, by decide +kernel⟩
  · exact congrArg Slot.gen (placed_slot walled (heldAs (act t) .idle none) 0)
  · exact congrArg Slot.held (placed_slot walled (heldAs (act t) .idle none) 0)

theorem witness_HandleCommandsAreChecked :
    (holding served armCmd).holds (inHand armCmd) 0x02 ∧ ((holding served armCmd).slot 0).held = none ∧
      (holding (one (.after 9) .pending (some ⟨.mono, 6000⟩)) [0x04, 0, 0, 0, 0, 2]).holds
        (inHand [0x04, 0, 0, 0, 0, 2]) 0x04 ∧
      (holding (placed served (heldAs (act (.atWall 9)) .idle none)) armCmd).wall.state = .unset ∧
      2 < (byteAt (inHand [0x03, 0, 0, 0, 0, 2, 3]).record 6).toNat ∧
      (holding (one (.after 9) .idle none) [0x05, 0, 0, 0, 0, 3]).holds (inHand [0x05, 0, 0, 0, 0, 3]) 0x05 := by
  decide +kernel

theorem witness_DisarmMakesTheSlotIdle :
    (holding (one (.after 9) .pending (some ⟨.mono, 6000⟩)) [0x03, 0, 0, 0, 0, 2, 2]).holds
        (inHand [0x03, 0, 0, 0, 0, 2, 2]) 0x03 ∧
      handleAt (inHand [0x03, 0, 0, 0, 0, 2, 2]).record 4 = ⟨0, 2⟩ ∧
      ((one (.after 9) .pending (some ⟨.mono, 6000⟩)).slot 0).held =
        some (heldAs (act (.after 9)) .pending (some ⟨.mono, 6000⟩)) ∧
      (byteAt (inHand [0x03, 0, 0, 0, 0, 2, 2]).record 6).toNat ≤ 2 ∧ (act (.after 9)).output = none := by decide +kernel

theorem witness_DisarmWithdrawsInstances :
    (holding (placed served (heldAs (actOn (.after 9) .toggle) .idle none)) [0x03, 0, 0, 0, 0, 2, 2]).holds
        (inHand [0x03, 0, 0, 0, 0, 2, 2]) 0x03 ∧
      (actOn (.after 9) .toggle).output = some { channel := 0, operation := .toggle } ∧
      byteAt (inHand [0x03, 0, 0, 0, 0, 2, 2]).record 6 = 2 ∧ byteAt (inHand [0x03, 0, 0, 0, 0, 2, 1]).record 6 = 1 ∧
      ((placed served (heldAs (actOn (.after 9) .toggle) .idle none)).slot 0).gen = 2 ∧ served.port.state = .running ∧
      served.reports.lost = 0 ∧ served.reports.records.length + served.reports.reservations + 9 ≤ 32 := by decide +kernel

theorem witness_ReleaseFreesTheSlot :
    (one (.after 9) .idle none).CollectionsSound ∧
      (holding (one (.after 9) .idle none) [0x04, 0, 0, 0, 0, 2]).holds (inHand [0x04, 0, 0, 0, 0, 2]) 0x04 ∧
      ((one (.after 9) .idle none).slot 0).held = some (heldAs (act (.after 9)) .idle none) :=
  ⟨placed_sound _ _ (by decide) (by decide), by decide +kernel⟩

theorem witness_QueryReportsTheSlot :
    (holding (one (.after 9) .idle none) [0x05, 0, 0, 0, 0, 2]).holds (inHand [0x05, 0, 0, 0, 0, 2]) 0x05 ∧
      ((one (.after 9) .idle none).slot 0).gen = 2 ∧
      ((one (.after 9) .idle none).slot 0).held = some (heldAs (act (.after 9)) .idle none) := by decide +kernel

theorem witness_SuspendAndResumeTheScheduler :
    (holding served [0x06]).holds (inHand [0x06]) 0x06 ∧ served.sched.state = .running ∧
      (withSched served .suspended).sched.state = .suspended ∧
      (holding (withSched (one (.after 9) .pending (some ⟨.mono, 5001⟩)) .suspended) [0x07]).holds (inHand [0x07]) 0x07 ∧
      (withSched (one (.after 9) .pending (some ⟨.mono, 5001⟩)) .suspended).nothingDue ∧
      (withSched (one (.after 9) .pending (some ⟨.mono, 5001⟩)) .suspended).sched.patterns = [] := by decide +kernel

theorem witness_ResumeTakesEveryDueOccurrence :
    (withSched (one (.after 9) .pending (some ⟨.mono, 5000⟩)) .suspended).CollectionsSound ∧
      (holding (withSched (one (.after 9) .pending (some ⟨.mono, 5000⟩)) .suspended) [0x07]).holds (inHand [0x07]) 0x07 ∧
      (0 : SlotId) ∈ (withSched (one (.atWall 10486260) .pending (some ⟨.wall, 10486260⟩)) .suspended).sched.wallDue ∧
      (withSched (one (.atWall 10486260) .pending (some ⟨.wall, 10486260⟩)) .suspended).dueOf 0 =
        (withSched (one (.atWall 10486260) .pending (some ⟨.wall, 10486260⟩)) .suspended).wallNow ∧
      (0 : SlotId) ∈ (withSched (one (.pattern everySecond) .watching none) .suspended).sched.patterns ∧
      (heldAs (act (.pattern everySecond)) .watching none).matches (walled.wallNow / 2 ^ 20) = true :=
  ⟨placed_sound (withSched walled .suspended) (heldAs (act (.after 9)) .pending (some ⟨.mono, 5000⟩)) (by decide)
    (by decide), by decide +kernel⟩

/-- The mono head of the EXPIRY witness: repeating in channel 0, due now. -/
def repeating : Held :=
  heldAs { actOn (.after 9) .toggle with period := some 1024, count := 3 } .pending (some ⟨.mono, 5000⟩)

theorem witness_ExpiryTakesTheDueEntry_mono :
    let s := placed walled repeating
    s.CollectionsSound ∧ s.sched.state = .running ∧ s.wallThen / 2 ^ 20 ≤ s.wall.lastSecond ∧
      (s.slot 0).held = some repeating ∧ repeating.nextDue = some ⟨.mono, 5000⟩ ∧ (0 : SlotId) ∉ s.sched.taken ∧
      s.sched.monoDue = [] ++ 0 :: [] ∧ 5000 ≤ s.time.mono ∧ s.sched.wallDue = [] ∧ s.sched.found = [] ∧
      repeating.action.output = some { channel := 0, operation := .toggle } ∧ 5000 - 5000 ≤ repeating.action.lateLimit :=
  ⟨placed_sound _ _ (by decide) (by decide), by decide +kernel⟩

/-- A wall head without a channel, due now or before now, to be skipped when late. -/
def wallHead (due : Nat) : Held :=
  heldAs { act (.atWall due) with latePolicy := .skip } .pending (some ⟨.wall, due⟩)

theorem witness_ExpiryTakesTheDueEntry_wall :
    let s := placed walled (wallHead 10486260)
    s.CollectionsSound ∧ s.sched.state = .running ∧ s.sched.found = [] ∧ s.wallThen / 2 ^ 20 ≤ s.wall.lastSecond ∧
      (s.slot 0).held = some (wallHead 10486260) ∧ (0 : SlotId) ∉ s.sched.taken ∧ s.sched.wallDue = [] ++ 0 :: [] ∧
      s.wall.state ≠ .unset ∧ 10486260 = s.wallNow ∧ s.stepDue = false ∧ s.sched.monoDue = [] ∧
      (wallHead 10486260).action.output = none ∧ (wallHead 10486260).action.followOn = none ∧
      (wallHead 10486259).action.lateLimit < s.wallNow - 10486259 :=
  ⟨placed_sound _ _ (by decide) (by decide), by decide +kernel⟩

/-- R43, R20: an event-only AFTER action whose follow-on is itself is IDLE by then, and is armed from its own fire instant. -/
theorem test_eventOnly_follows_itself :
    ((after .expiry (placed walled (heldAs { act (.after 9) with followOn := some ⟨0, 2⟩ } .pending
      (some ⟨.mono, 5000⟩)))).slot 0).held.bind Held.nextDue = some ⟨.mono, 5009⟩ := by decide +kernel

theorem witness_NothingIsTakenWithoutCause :
    (one (.after 9) .pending (some ⟨.mono, 5001⟩)).nothingDue ∧ (withSched walled .suspended).sched.state ≠ .running ∧
      walled.wall.state ≠ .unset ∧ walled.stepDue = false ∧
      ({ walled with wall := { walled.wall with lastSecond := 9 } } : State).wall.lastSecond < walled.wallNow / 2 ^ 20 := by
  decide +kernel

theorem witness_AdmissionFollowsTheBusyPolicy :
    pulsing.Sound ∧ Channel.Sound Channel.reset ∧ Channel.Sound { Channel.reset with state := .idle } ∧
      pulsing.running ≠ none ∧ [inst .toggle].length < 8 ∧ (inst .toggle).busy = .queue ∧
      (List.replicate 8 (inst .toggle)).length = 8 :=
  ⟨pulsing_sound, by constructor <;> simp [Channel.reset], by constructor <;> simp [Channel.reset], by decide +kernel⟩

/-- An every-second pattern watching, one second behind. -/
def watchingState : State :=
  placed { walled with wall := { walled.wall with lastSecond := 9 } } (heldAs (act (.pattern everySecond)) .watching none)

/-- A wall entry due at the instant that the forward slew step of this instant passes over. -/
theorem witness_NothingIsTakenWithoutCause_step :
    let s := placed (slewing ⟨3, 3, 0, 5000⟩) (wallHead 10486260)
    s.CollectionsSound ∧ s.stepDue = true ∧ s.wall.slew = some ⟨3, 3, 0, 5000⟩ ∧ s.wall.state ≠ .unset ∧
      0 ≤ (s.time.mono : Int) + s.wall.offset ∧ s.sched.found = [] ∧ s.sched.wallDue = [0] ∧ s.sched.taken = [] ∧
      s.dueOf 0 = s.wallNow ∧ s.sched.monoDue = [] :=
  ⟨placed_sound _ _ (by decide) (by decide), by decide +kernel⟩

theorem witness_NothingIsTakenWithoutCause_boundary :
    watchingState.CollectionsSound ∧ watchingState.time.exhausted = false ∧ watchingState.wall.state ≠ .unset ∧
      watchingState.wall.lastSecond < watchingState.wallThen / 2 ^ 20 ∧ watchingState.sched.patterns = [0] ∧
      watchingState.sched.taken = [] ∧ watchingState.sched.found = [] ∧ watchingState.sched.monoDue = [] ∧
      (heldAs (act (.pattern everySecond)) .watching none).matches (watchingState.wallThen / 2 ^ 20) = true ∧
      watchingState.sched.wallDue = [] :=
  ⟨placed_sound _ _ (by decide) (by decide), by decide +kernel⟩

/-- At mono instant 5000 a forward slew step waits at the first FU of wall second 10, slot 0 is due on the mono clock, and slot
1 watches. -/
def stepAtBoundary : State :=
  let s := placed (slewing ⟨3, 3, 0, 5000⟩) (heldAs (actOn (.atMono 5000) .toggle) .pending (some ⟨.mono, 5000⟩))
  { s with
    wall := { s.wall with offset := 10 * 2 ^ 20 - 5000, lastSecond := 9 }
    slots := s.slots.set 1 { gen := 0, held := some (heldAs (act (.pattern everySecond)) .watching none) }
    sched := { s.sched with patterns := [1] } }

/-- R98, R35: the match of the boundary has lateness 1, and so comes before the mono entry. -/
theorem test_expiry_waits_for_the_slew_step :
    (after .expiry stepAtBoundary).sched.taken = [] ∧
      (after .expiry (after .runningSecondBoundary (after .slewStep stepAtBoundary))).sched.taken = [1] := by
  decide +kernel

theorem witness_BoundaryTakesEveryMatch :
    watchingState.CollectionsSound ∧ watchingState.sched.state = .running ∧ watchingState.wall.state ≠ .unset ∧
      watchingState.time.exhausted = false ∧ watchingState.stepDue = false ∧ watchingState.sched.found = [] ∧
      watchingState.wall.lastSecond < watchingState.wallNow / 2 ^ 20 ∧ (0 : SlotId) ∈ watchingState.sched.patterns ∧
      (heldAs (act (.pattern everySecond)) .watching none).matches (watchingState.wallNow / 2 ^ 20) = true :=
  ⟨placed_sound _ _ (by decide) (by decide), by decide +kernel⟩

/-- The same once its boundary has been evaluated: the occurrence found waits to be taken. -/
def foundState : State := after .runningSecondBoundary watchingState

theorem foundState_eq : foundState =
    { watchingState with
      wall := { watchingState.wall with lastSecond := 10 }
      sched := { watchingState.sched with found := [⟨0, 10, 500⟩] } } := by decide +kernel

theorem foundState_sound : foundState.CollectionsSound := by
  have h : watchingState.CollectionsSound := placed_sound _ _ (by decide) (by decide)
  rw [foundState_eq]
  exact ⟨h.mono, h.wall, h.patterns, h.waits, h.held, h.watching, h.waiting, h.wallBound, h.monoBound, h.once, h.ordered,
    h.unset, by decide +kernel, by decide +kernel⟩

/-- R102, R103: the occurrence found is the last of its run, and no entry of a due list comes before it. -/
theorem witness_BoundaryTakesEveryMatch_taking :
    foundState.CollectionsSound ∧ foundState.sched.state = .running ∧
      foundState.wallThen / 2 ^ 20 ≤ foundState.wall.lastSecond ∧ foundState.sched.found = [] ++ ⟨0, 10, 500⟩ :: [] ∧
      (foundState.slot 0).held = some (heldAs (act (.pattern everySecond)) .watching none) ∧
      foundState.sched.monoDue = [] ∧ foundState.sched.wallDue = [] :=
  ⟨foundState_sound, by decide +kernel⟩

/-- R96, table 4.2: 29 February 2096 is the last day of its month, and a Wednesday. -/
theorem witness_BoundaryTakesEveryMatch_pattern :
    let h := heldAs (act (.pattern { everySecond with hour := some 23, day := .last, months := 2, weekdays := 4 })) .watching none
    h.matches (secondOfCalendar ⟨2096, 2, 29, 23, 59, 59, 0⟩) = true ∧
      h.matches (secondOfCalendar ⟨2096, 2, 28, 23, 59, 59, 0⟩) = false ∧
      secondOfCalendar ⟨2096, 2, 29, 23, 59, 59, 0⟩ < 3155760000 := by decide +kernel

theorem witness_CalendarConversionIsInvertible :
    (3155759999 : Nat) < 3155760000 ∧ calendarError ⟨2096, 2, 29, 23, 59, 59, 0⟩ 1048575 = none := by decide +kernel

theorem witness_SnapRoundsToTheNearest : 1048576 ≤ 2 * (524288 % 1048576) ∧ 2 * (31457279 % 62914560) < 62914560 := by
  decide

theorem witness_ReadTimeReportsBothClocks : (holding walled [0x08]).holds (inHand [0x08]) 0x08 := by decide +kernel

/-- SET_TIME to 2099-12-31 23:59:59, fraction 2^20 - 1. -/
def lastSetTime : List Nat := [0x09, 0, 0, 0, 0x33, 0x08, 12, 31, 23, 59, 59, 0, 0xFF, 0xFF, 0x0F]

theorem witness_SetTimeBeginsWallTime :
    (holding served lastSetTime).holds (inHand lastSetTime) 0x09 ∧
      setTimeFields (inHand lastSetTime).record = ⟨2099, 12, 31, 23, 59, 59, 0⟩ ∧
      (le32 (inHand lastSetTime).record 12).toNat = 1048575 ∧
      setTimeFields (inHand [0x09, 0, 0, 0, 0x33, 0x08, 2, 29]).record = ⟨2099, 2, 29, 0, 0, 0, 0⟩ ∧
      served.wall.state = .unset ∧ served.wall.slew = none ∧ served.cmd.adjust = none := by decide +kernel

/-- Table 4.3: 2099 has no 29 February, and 2096 has one. -/
theorem test_setTime_invalid_day :
    (after .setTime (holding served [0x09, 0, 0, 0, 0x33, 0x08, 2, 29])).reports.records =
      [(inHand [0x09, 0, 0, 0, 0x33, 0x08, 2, 29]).answer .badField (some 3) .none] ∧
      (after .setTime (holding served [0x09, 0, 0, 0, 0x30, 0x08, 2, 29])).wall.state = .running := by decide +kernel

theorem witness_WallChangeLandsOnTheNewInstant :
    (placed (holding walled lastSetTime) (heldAs (act (.after 9)) .idle none)).CollectionsSound ∧
      (holding walled lastSetTime).holds (inHand lastSetTime) 0x09 ∧
      (holding walled [0x0A]).holds (inHand [0x0A]) 0x0A ∧
      (10486260 : Int) = ((holding walled [0x0A]).time.mono : Int) + (holding walled [0x0A]).wall.offset +
        (le64 (inHand [0x0A]).record 8).toInt ∧
      (holding walled [0x0C, 0, 0, 0, 1]).holds (inHand [0x0C, 0, 0, 0, 1]) 0x0C ∧
      byteAt (inHand [0x0C, 0, 0, 0, 1]).record 5 = 0 ∧ byteAt (inHand [0x0C, 0, 0, 0, 1]).record 4 = 1 ∧
      SnapUnit.minute.round (holding walled [0x0C, 0, 0, 0, 1]).wallNow = 0 ∧ walled.wall.state ≠ .unset ∧
      0 ≤ (walled.time.mono : Int) + walled.wall.offset ∧
      calendarError (setTimeFields (inHand lastSetTime).record) (le32 (inHand lastSetTime).record 12).toNat = none ∧
      secondOfCalendar (setTimeFields (inHand lastSetTime).record) * 2 ^ 20 + (le32 (inHand lastSetTime).record 12).toNat =
        3155760000 * 2 ^ 20 - 1 :=
  ⟨placed_sound _ _ (by decide) (by decide), by decide +kernel⟩

/-- R47, R100: the state of the witness above with a wall entry ahead, and with a member of the pattern set that the landing
second 0 of the snap does not match, being fired for second 5 already. -/
theorem witness_WallChangeLandsOnTheNewInstant_scheduler :
    (one (.atWall 20000000) .pending (some ⟨.wall, 20000000⟩)).CollectionsSound ∧
      (one (.atWall 20000000) .pending (some ⟨.wall, 20000000⟩)).sched.state = .running ∧
      (one (.atWall 20000000) .pending (some ⟨.wall, 20000000⟩)).wallNow < 20000000 ∧
      (0 : SlotId) ∈ (one (.atWall 20000000) .pending (some ⟨.wall, 20000000⟩)).sched.wallDue ∧
      (one (.pattern everySecond) .watching none).sched.found = [] ∧
      (heldAs (act (.pattern everySecond)) .watching none).matches (20000000 / 2 ^ 20) = true ∧
      ({ heldAs (act (.pattern everySecond)) .watching none with lastFired := some 5 } : Held).matches 0 = false :=
  ⟨placed_sound _ _ (by decide) (by decide), by decide +kernel⟩

/-- STEP_TIME back by 500 FU, to the beginning of the second. -/
def backStep : List Nat := [0x0A, 0, 0, 0, 0, 0, 0, 0, 0x0C, 0xFE, 0xFF, 0xFF, 0xFF, 0xFF, 0xFF, 0xFF]

theorem witness_StepAndSnapChecksAndTheLoneClockChange :
    (holding served backStep).holds (inHand backStep) 0x0A ∧ served.wall.state = .unset ∧
      (({ walled with wall := { walled.wall with offset := -4501 } } : State).wallNow : Int) +
        (le64 (inHand backStep).record 8).toInt < 0 ∧
      1 < (byteAt (inHand [0x0C, 0, 0, 0, 2]).record 4).toNat ∧ 1 < (byteAt (inHand [0x0C, 0, 0, 0, 1, 2]).record 5).toNat ∧
      3155760000 * 2 ^ 20 - 31457280 ≤
        ({ walled with wall := { walled.wall with offset := 3309054166297720 } } : State).wallNow ∧
      3155760000 * 2 ^ 20 - 524288 ≤
        ({ walled with wall := { walled.wall with offset := 3309054197230712 } } : State).wallNow ∧
      (holding walled backStep).wall.state = .running ∧ (le64 (inHand backStep).record 8).toInt ≤ 0 ∧
      -(le64 (inHand backStep).record 8).toInt ≤ ((holding walled backStep).wallNow % 2 ^ 20 : Nat) := by decide +kernel

theorem witness_AdjustTimeBeginsASlew : (holding walled [0x0B, 0, 0, 0, 0, 0, 0, 0, 3]).holds
    (inHand [0x0B, 0, 0, 0, 0, 0, 0, 0, 3]) 0x0B := by decide +kernel

theorem witness_SnapTimeWaitsForTheReferenceOrTimesOut :
    (holding walled [0x0C, 0, 0, 0, 1, 1, 255]).holds (inHand [0x0C, 0, 0, 0, 1, 1, 255]) 0x0C ∧
      byteAt (inHand [0x0C, 0, 0, 0, 1, 1, 255]).record 4 = 1 ∧ byteAt (inHand [0x0C, 0, 0, 0, 1, 1, 255]).record 5 = 1 ∧
      (snapping walled ⟨.minute, 5000⟩).wall.snap = some ⟨.minute, 5000⟩ ∧
      (snapping walled ⟨.minute, 5000⟩).time.mono = 5000 ∧ (snapping walled ⟨.minute, 5000⟩).time.exhausted = false ∧
      (snapping walled ⟨.minute, 5000⟩).cmd.snap = some ⟨8, 2⟩ := by decide +kernel

/-- The same with wall time one FU before the last of its range. -/
def beforeLast (w : Slew) : State := { slewing w with wall := { (slewing w).wall with offset := 3309054197754998 } }

theorem witness_SlewStepMovesTheOffset :
    (slewing ⟨-3, -1, -2, 5000⟩).wall.state = .slewing ∧ (slewing ⟨-3, -1, -2, 5000⟩).wall.slew = some ⟨-3, -1, -2, 5000⟩ ∧
      (slewing ⟨-3, -1, -2, 5000⟩).time.mono = 5000 ∧ (slewing ⟨-3, -1, -2, 5000⟩).time.exhausted = false ∧
      (slewing ⟨3, 2, 1, 5000⟩).wallNow + 1 < 3155760000 * 2 ^ 20 - 1 ∧
      (beforeLast ⟨3, 2, 1, 5000⟩).wallNow + 1 =
        3155760000 * 2 ^ 20 - 1 ∧
      (slewing ⟨-3, -1, -2, 5000⟩).cmd.adjust = some ⟨9, 1⟩ := by decide +kernel

/-- An AT_WALL action PENDING on the last wall instant. -/
def onLast : Held := heldAs (act (.atWall 3309054197759999)) .pending (some ⟨.wall, 3309054197759999⟩)

/-- The last wall instant, with that action. -/
def lastInstant : State :=
  placed { walled with wall := { walled.wall with offset := 3309054197754999 }, reports := .reset } onLast

theorem witness_RangeEndUnsetsTheWall :
    lastInstant.CollectionsSound ∧ lastInstant.QueueSound ∧ lastInstant.time.exhausted = false ∧
      lastInstant.wall.state ≠ .unset ∧ lastInstant.wallNow = 3155760000 * 2 ^ 20 - 1 ∧ lastInstant.port.state = .running ∧
      1 ≤ 32 - lastInstant.reports.records.length - lastInstant.reports.reservations ∧ lastInstant.reports.lost = 0 :=
  ⟨placed_sound _ _ (by decide) (by decide), by constructor <;> decide +kernel, by decide +kernel⟩

/-- R88: the range end that a forward slew step would bring, with the same action. -/
theorem witness_RangeEndUnsetsTheWall_slewing :
    let s := placed { beforeLast ⟨3, 2, 1, 5000⟩ with reports := { ReportQueue.reset with reservations := 1 } } onLast
    s.CollectionsSound ∧ s.QueueSound ∧ s.time.exhausted = false ∧ s.wall.state = .slewing ∧
      3155760000 * 2 ^ 20 - 1 ≤ s.wallNow + 1 ∧ s.wall.slew = some ⟨3, 2, 1, 5000⟩ ∧ 5000 = s.time.mono ∧
      s.port.state = .running ∧ 1 ≤ 32 - s.reports.records.length - s.reports.reservations ∧ s.reports.lost = 0 :=
  ⟨placed_sound _ _ (by decide) (by decide), by constructor <;> decide +kernel, by decide +kernel⟩

theorem witness_FineUnitAdvancesMono : walled.time.exhausted = false ∧ walled.outstanding = false := by decide +kernel

theorem witness_RefEdgeIsJudgedByTheDiscipline :
    served.time.disc.state = .off ∧
      (withDisc served (locked 3975)).time.disc.expect = some 3975 ∧ 3975 + 1024 < (withDisc served (locked 3975)).time.mono ∧
      (withDisc served { locked 3976 with state := .acquire, good := 3 }).time.disc.state = .acquire ∧
      (withDisc served { locked 3976 with state := .holdover }).time.disc.holdoverAt ≠ some 5000 ∧
      (withDisc served { locked 3976 with state := .holdover, holdoverAt := some 5000 }).time.disc.holdoverAt =
        some served.time.mono ∧
      (withDisc served (locked 3976)).time.mono ≤ 3976 + 1024 ∧ 6024 ≤ (withDisc served (locked 6024)).time.mono + 1024 ∧
      (withDisc served (locked 6024)).wall.snap = none := by decide +kernel

/-- A SNAP pending and a slew in flight at half a second past wall second 10, the discipline LOCKED and expecting an edge two
fine units ago, and an AT_WALL action due in between. -/
def snapState : State :=
  placed
    (snapping (withDisc { slewing ⟨3, 2, 1, 6000⟩ with wall := { (slewing ⟨3, 2, 1, 6000⟩).wall with offset := 11005048 } }
      (locked 4998)) ⟨.second, 9000⟩)
    (heldAs (act (.atWall 11500000)) .pending (some ⟨.wall, 11500000⟩))

theorem witness_GoodEdgeAppliesThePendingSnap :
    snapState.CollectionsSound ∧ snapState.time.disc.state = .locked ∧ snapState.time.disc.expect = some 4998 ∧
      4998 ≤ snapState.time.mono + 1024 ∧ snapState.time.mono ≤ 4998 + 1024 ∧
      snapState.wall.snap = some ⟨.second, 9000⟩ ∧ snapState.cmd.snap = some ⟨8, 2⟩ ∧ snapState.wall.state ≠ .unset ∧
      snapState.wall.slew = some ⟨3, 2, 1, 6000⟩ ∧ snapState.cmd.adjust = some ⟨9, 1⟩ ∧ snapState.sched.state = .running ∧
      SnapUnit.second.round snapState.wallNow = 11 * 2 ^ 20 ∧ snapState.wallNow < 11 * 2 ^ 20 ∧ snapState.sched.found = [] ∧
      3155760000 * 2 ^ 20 - 1 < SnapUnit.second.round lastInstant.wallNow :=
  ⟨placed_sound _ _ (by decide) (by decide), by decide +kernel⟩

/-- R47, R60, R84: the edge adds 32 to the trim, and takes the occurrence that the snap has made due. -/
theorem test_snap_takes_what_is_due :
    (after .refEdge snapState).time.trim = 32 ∧ (after .refEdge snapState).sched.taken = [0] := by decide +kernel

theorem witness_WindowCloseCountsTheMiss :
    (withDisc served (locked 3975)).time.disc.expect = some 3975 ∧
      (withDisc served (locked 3975)).time.mono = 3975 + (locked 3975).window + 1 ∧
      (withDisc served (locked 3976)).time.mono ≠ 3976 + (locked 3976).window + 1 ∧
      (locked 3975).miss + 1 < (locked 3975).missLimit ∧
      ({ locked 3975 with miss := 2 } : Discipline).missLimit ≤ ({ locked 3975 with miss := 2 } : Discipline).miss + 1 := by
  decide +kernel

theorem witness_EdgeAndCloseCommute :
    (withDisc served (locked 3975)).time.Sound ∧ (withDisc served (locked 3975)).time.disc.state ≠ .off ∧
      (withDisc served (locked 3975)).time.disc.expect = some 3975 ∧
      (withDisc served (locked 3975)).time.mono = 3975 + (withDisc served (locked 3975)).time.disc.window + 1 :=
  ⟨locked_sound 3975, by decide +kernel⟩

/-- R62: with the miss limit reached by the close, both orders end in HOLDOVER with no run begun. -/
theorem test_edge_after_holdover_is_stray :
    (after .refEdge (after .windowClose (withDisc served { locked 3975 with miss := 2, lockCount := 1 }))).time.disc.state =
      .holdover := by decide +kernel

/-- A CONFIG_REFERENCE with mode, window, lock count, miss limit and the low bytes of a trim. -/
def configRef (mode window lockCount missLimit t0 t1 t2 t3 : Nat) : List Nat :=
  [0x0D, 0, 0, 0, mode, 0, window, 0, lockCount, missLimit, 0, 0, t0, t1, t2, t3]

theorem witness_ConfigReferenceRestartsAcquisition :
    (holding served (configRef 1 16 15 15 0 0 4 0)).holds (inHand (configRef 1 16 15 15 0 0 4 0)) 0x0D ∧
      (le32 (inHand (configRef 1 16 15 15 0 0 4 0)).record 12).toInt = 262144 ∧
      262144 < (le32 (inHand (configRef 1 16 15 15 1 0 4 0)).record 12).toInt ∧
      le32 (inHand (configRef 0 16 1 1 0 0 0 0x80)).record 12 = 0x80000000 ∧
      1 < (byteAt (inHand (configRef 2 16 1 1 0 0 0 0)).record 4).toNat ∧
      (le16 (inHand (configRef 1 15 1 1 0 0 0 0)).record 6).toNat < 16 ∧
      15 < (byteAt (inHand (configRef 1 16 16 1 0 0 0 0)).record 8).toNat ∧
      (byteAt (inHand (configRef 1 16 1 0 0 0 0 0)).record 9).toNat = 0 ∧ served.time.disc.state ≠ .acquire ∧
      served.port.state = .running ∧ served.reports.lost = 0 ∧
      served.reports.records.length + served.reports.reservations < 32 := by decide +kernel

theorem witness_ExhaustionHaltsThePort :
    (withMono served 4503599627370495).time.exhausted = false ∧ (withMono served 4503599627370495).time.mono = 2 ^ 52 - 1 ∧
      (withMono served 4503599627370495).port.state ≠ .halted := by decide +kernel

/-- A channel command's first bytes. -/
def chanCmd (opcode channel enable initial parked : Nat) : List Nat := [opcode, 0, 0, 0, channel, enable, initial, parked]

theorem witness_ConfigChannelFollowsItsTable :
    (holding served (chanCmd 0x0E 7 1 1 1)).holds (inHand (chanCmd 0x0E 7 1 1 1)) 0x0E ∧
      (byteAt (inHand (chanCmd 0x0E 8 1 1 1)).record 4).toNat = 8 ∧
      (7 : Fin 8).val = (byteAt (inHand (chanCmd 0x0E 7 1 1 1)).record 4).toNat ∧
      1 < (byteAt (inHand (chanCmd 0x0E 7 2 1 1)).record 5).toNat ∧
      1 < (byteAt (inHand (chanCmd 0x0E 7 1 2 1)).record 6).toNat ∧
      1 < (byteAt (inHand (chanCmd 0x0E 7 1 1 2)).record 7).toNat ∧ (served.chan 7).state = .disabled ∧
      ((onChan served .pulse (running (inst (.train 5 7 2)) 1) [inst .toggle]).chan 0).state = .pulse ∧
      byteAt (inHand (chanCmd 0x0E 0 0 0 0)).record 5 = 0 ∧
      served.reports.records.length + served.reports.reservations + 9 ≤ 32 ∧ served.reports.lost = 0 := by decide +kernel

theorem witness_FlushClearsAndStatusReadsTheChannel :
    (holding served (chanCmd 0x0F 7 0 0 0)).holds (inHand (chanCmd 0x0F 7 0 0 0)) 0x0F ∧
      (holding served (chanCmd 0x10 7 0 0 0)).holds (inHand (chanCmd 0x10 7 0 0 0)) 0x10 ∧
      8 ≤ (byteAt (inHand (chanCmd 0x10 8 0 0 0)).record 4).toNat ∧
      (7 : Fin 8).val = (byteAt (inHand (chanCmd 0x0F 7 0 0 0)).record 4).toNat := by decide +kernel

theorem witness_PhaseEndsRunTheInstance :
    let pulse := running (inst (.train 5 7 2)) 1
    let last := running (inst (.train 5 7 2)) 2
    ((onChan served .pulse pulse []).chan 0).running = some pulse ∧ pulse.phaseEnd = (onChan served .pulse pulse []).time.mono ∧
      pulse.inst.operation = some (.train 5 7 2) ∧ pulse.pulses < 2 ∧ 2 ≤ last.pulses ∧
      ((onChan served .space last [inst .toggle]).chan 0).queue = inst .toggle :: [] ∧ last.inst.followOn = none ∧
      (inst .toggle).operation = some .toggle ∧ served.time.exhausted = false := by decide +kernel

theorem witness_CompletionArmsTheFollowOn :
    let r := running { inst .setHigh with followOn := some ⟨0, 2⟩ } 0
    let s := onChan (one (.after 0) .idle none) .space r []
    (∀ p sp n, r.inst.operation ≠ some (.train p sp n)) ∧ (s.chan 0).running = some r ∧ r.phaseEnd = s.time.mono ∧
      (s.chan 0).queue = [] ∧ r.inst.followOn = some ⟨0, 2⟩ ∧ s.time.exhausted = false ∧
      (s.slot 0).held = some (heldAs (act (.after 0)) .idle none) ∧ (s.slot 0).gen = 2 ∧
      (s.slot 1).held = none :=
  ⟨nofun, by decide +kernel⟩

/-- R118: a train after its second pulse of two, with a follow-on and an instance waiting behind it. -/
theorem witness_CompletionArmsTheFollowOn_train :
    let r := running { inst (.train 5 7 2) with followOn := some ⟨0, 2⟩ } 2
    let s := onChan (one (.after 0) .idle none) .space r [inst .toggle]
    (s.chan 0).running = some r ∧ r.phaseEnd = s.time.mono ∧ r.inst.operation = some (.train 5 7 2) ∧
      (s.chan 0).state = .space ∧ 2 ≤ r.pulses ∧ (s.chan 0).queue = inst .toggle :: [] ∧ r.inst.followOn = some ⟨0, 2⟩ ∧
      (after (.phaseEnd 0) s).sched.monoDue = [0] ∧ ((after (.phaseEnd 0) s).chan 0).level = .high := by decide +kernel

/-- A CONFIG_CAPTURE's bytes. -/
def capCmd (input mode select f0 f1 report : Nat) : List Nat := [0x11, 0, 0, 0, input, mode, select, 0, f0, f1, report]

theorem witness_CaptureCommandsConfigureAndRead :
    (holding served (capCmd 3 1 2 0xFF 3 1)).holds (inHand (capCmd 3 1 2 0xFF 3 1)) 0x11 ∧
      (3 : Fin 4).val = (byteAt (inHand (capCmd 3 1 2 0xFF 3 1)).record 4).toNat ∧
      (le16 (inHand (capCmd 3 1 2 0xFF 3 1)).record 8).toNat = 1023 ∧
      1023 < (le16 (inHand (capCmd 3 1 2 0 4 1)).record 8).toNat ∧
      4 ≤ (byteAt (inHand (capCmd 4 1 2 0 0 1)).record 4).toNat ∧ 1 < (byteAt (inHand (capCmd 3 2 2 0 0 1)).record 5).toNat ∧
      2 < (byteAt (inHand (capCmd 3 1 3 0 0 1)).record 6).toNat ∧ 1 < (byteAt (inHand (capCmd 3 1 2 0 0 2)).record 10).toNat ∧
      byteAt (inHand (capCmd 3 1 2 0xFF 3 1)).record 6 = 2 ∧
      (holding served [0x12, 0, 0, 0, 3]).holds (inHand [0x12, 0, 0, 0, 3]) 0x12 := by decide +kernel

/-- Input 2 ON with an edge selection and a filter time. -/
def listening (select : EdgeSelect) (filter : Nat) (x : Option Candidate) : Capture :=
  { Capture.reset .low with
    on := true, select := select, filter := filter, report := true, line := if x.isSome then .high else .low, candidate := x }

theorem witness_TransitionFeedsTheFilter :
    served.time.exhausted = false ∧ (served.cap 2).on = false ∧ (served.cap 2).movedAt ≠ some served.time.mono ∧
      ((after (.transition 2) served).cap 2).movedAt = some served.time.mono ∧
      ((served.withCap 2 (listening .rising 1 (some ⟨.high, 4999, 5000⟩))).cap 2).candidate ≠ none ∧
      ((served.withCap 2 (listening .rising 1 none)).cap 2).line = ((served.withCap 2 (listening .rising 1 none)).cap 2).filtered ∧
      0 < ((served.withCap 2 (listening .rising 1 none)).cap 2).filter ∧
      ((served.withCap 2 (listening .rising 0 none)).cap 2).filter = 0 := by decide +kernel

/-- Slot 0 waits on input 2, whose candidate is accepted now. -/
def waitingState (select : EdgeSelect) : State :=
  (placed served (heldAs (act (.onCapture 2 300 .everyEdge)) .waiting none)).withCap 2
    (listening select 200 (some ⟨.high, 4800, 5000⟩))

theorem witness_AcceptedEdgeConvertsTheWaitSet :
    (waitingState .rising).CollectionsSound ∧
      (waitingState .rising).time.exhausted = false ∧ ((waitingState .rising).cap 2).on = true ∧
      ((waitingState .rising).cap 2).candidate = some ⟨.high, 4800, 5000⟩ ∧ (5000 : Nat) = (waitingState .rising).time.mono ∧
      ((waitingState .falling).cap 2).select = .falling ∧ (waitingState .rising).sched.state ≠ .halted ∧
      (waitingState .rising).sched.waits[2] = [0] ∧ served.sched.waits[2] = [] :=
  ⟨placed_sound { served with caps := served.caps.set 2 (listening .rising 200 (some ⟨.high, 4800, 5000⟩)) }
    (heldAs (act (.onCapture 2 300 .everyEdge)) .waiting none) (by decide) (by decide), by decide +kernel⟩

/-- A queue of `n` records with one reservation. -/
def crowded (n lost : Nat) : State :=
  { served with reports := { served.reports with records := List.replicate n (.overflow 1 0), lost := lost } }

theorem witness_OfferFollowsTheMargin :
    32 - (crowded 31 0).reports.records.length - (crowded 31 0).reports.reservations = 0 ∧
      (crowded 30 0).port.state = .running ∧
      1 ≤ 32 - (crowded 30 0).reports.records.length - (crowded 30 0).reports.reservations ∧
      (crowded 30 0).reports.lost = 0 ∧
      2 ≤ 32 - (crowded 29 65535).reports.records.length - (crowded 29 65535).reports.reservations ∧
      0 < (crowded 29 65535).reports.lost ∧
      32 - (crowded 30 1).reports.records.length - (crowded 30 1).reports.reservations = 1 := by decide +kernel

/-- A completion with results. -/
def answering (results : Results) : Report :=
  .completion { tag := 1, opcode := 0x10, ringIndex := 4095, status := .ok, fieldNo := none, results := results }

theorem witness_ReportRecordsCarryKindPhaseAndCommonFields :
    (answering (.queried ⟨⟨5, 6⟩, .watching, none, none, 0, .unlimited, some (8, true)⟩) =
        .completion ⟨1, 0x10, 4095, .ok, none, .queried ⟨⟨5, 6⟩, .watching, none, none, 0, .unlimited, some (8, true)⟩⟩) ∧
      (answering (.channelRead ⟨true, .pulse, .low, .low, .high, some ⟨5, 6⟩, List.replicate 8 ⟨7, 8⟩⟩)).bytes true =
        (answering (.channelRead ⟨true, .pulse, .low, .low, .high, some ⟨5, 6⟩, List.replicate 8 ⟨7, 8⟩⟩)).layout true := by
  decide +kernel

theorem witness_InterruptRegistersAreWritten :
    served.time.exhausted = false ∧ served.irq.status.reports = false ∧
      ({ Irq.reset with time := 1, count := 1, start := some 3976 } : Irq).start = some 3976 ∧
      3976 + (1 : BitVec 16).toNat * 1024 ≤ served.time.mono ∧ max 1 ((1 : Word).toNat % 256) ≤ 1 := by decide +kernel

theorem witness_FetchesStartAndEnd :
    let s := { served with port := { served.port with crTail := 1 } }
    (s.port.state = .running ∧ s.port.crHead ≠ s.port.crTail ∧ s.cmd.state = .idle ∧ s.port.fetch = none ∧
        s.reports.records.length + s.reports.reservations < 32) ∧
      ({ s with port := { s.port with fetch := some 0 } } : State).port.fetch ≠ none ∧
      (withPort { s with port := { s.port with fetch := some 0 } } .draining).port.state = .draining := by decide +kernel

theorem witness_ReportWritesStartAndEnd :
    (crowded 1 0).reports.records = .overflow 1 0 :: [] ∧ (crowded 1 0).reports.write = none ∧
      ((crowded 1 0).port.rrTail + 1) % (crowded 1 0).port.rrSize.toNat ≠ (crowded 1 0).port.rrHead ∧
      (crowded 1 0).port.state = .running ∧ (withPort (crowded 1 0) .draining).port.state = .draining ∧
      (crowded 2 0).reports.records = .overflow 1 0 :: .overflow 1 0 :: [] ∧
      ((0 + 1) % 16 + 1) % (crowded 2 0).port.rrSize.toNat ≠ (crowded 2 0).port.rrHead ∧
      ({ crowded 1 0 with reports :=
        { (crowded 1 0).reports with write := some ⟨4096, 0, true, 0⟩ } } : State).reports.write ≠ none := by decide +kernel

theorem witness_EnableWritesMoveThePort :
    ({ served with reports := .reset } : State).QueueSound ∧ ({ served with reports := .reset } : State).port.state = .running ∧
      ringed.port.state = .disabled ∧ ringed.port.crBase.toNat % 64 = 0 ∧ ringed.port.crSize.toNat = 2 ^ 4 ∧
      ringed.port.crBase.toNat + 32 * ringed.port.crSize.toNat ≤ 2 ^ 32 ∧ ringed.port.rrBase.toNat % 64 = 0 ∧
      ringed.port.rrSize.toNat = 2 ^ 4 ∧ ringed.time.exhausted = false :=
  ⟨by constructor <;> decide +kernel, by decide +kernel⟩

theorem witness_RegisterWritesAreTaken :
    served.port.state = .running ∧ (15 : Word).toNat < served.port.crSize.toNat ∧
      served.port.crSize.toNat ≤ (16 : Word).toNat ∧
      ((0 : Word).toNat < served.port.rrSize.toNat ∧
        ((0 : Word).toNat + 16 - served.port.rrHead) % 16 ≤ (served.port.rrTail + 16 - served.port.rrHead) % 16) ∧
      ¬ ((1 : Word).toNat + 16 - served.port.rrHead) % 16 ≤ (served.port.rrTail + 16 - served.port.rrHead) % 16 ∧
      ringed.port.state = .disabled ∧ (0x40 : Nat) < 0x44 ∧ served.port.crHead ≠ (15 : Word).toNat ∧
      served.cmd.state = .idle ∧ served.port.fetch = none ∧
      served.reports.records.length + served.reports.reservations < 32 ∧
      (crowded 1 0).reports.records = .overflow 1 0 :: [] ∧ (crowded 1 0).reports.write = none ∧
      ((crowded 1 0).port.rrTail + 1) % 16 ≠ (0 : Word).toNat := by decide +kernel

end Sys2Proof.Machine.Tests
end

section
/-! SUPPORT. The action table's moves: every way in which a command changes the slots and the collections, said once. The
invariants of the table are then proved of each move, and hold after every command. -/

namespace Sys2Proof.Machine

/-! ### The moves -/

/-- The slots and the collections are as they were, but that occurrences found or taken may have been forgotten; and the wall
has not become UNSET under a held slot that is wall-bound. -/
structure State.Quiet (s t : State) : Prop where
  slots : t.slots = s.slots
  lists : t.sched = { s.sched with state := t.sched.state, taken := t.sched.taken, found := t.sched.found }
  taken : t.sched.taken ⊆ s.sched.taken
  found : t.sched.found.Sublist s.sched.found
  wall : t.wall.state = .unset → s.wall.state = .unset ∨ ∀ i ∈ s.sched.wallBound, (s.slot i).held = none

/-- `u` is `s` with slot `i` out of every collection, marked as taken or not (R28, R36). -/
def State.Lifted (s : State) (i : SlotId) (u : State) : Prop := u = s.uncollect i ∨ u = (s.markTaken i).uncollect i

/-- One move of the action table and the scheduler's collections. -/
inductive State.Move : State → State → Prop where
  | quiet {s t : State} (q : s.Quiet t) : Move s t
  | found (s : State) (second : Nat) : Move s (s.offerSecond second)
  | armed {s : State} {i : SlotId} {h : Held} (now : Nat) (held : (s.slot i).held = some h) (idle : h.state = .idle)
      (wall : h.action.trigger.wallBound = true → s.wall.state ≠ .unset) : Move s (s.armSlot i h.action now)
  | again {s u : State} {i : SlotId} {h h' : Held} {due due' : Due} (held : (s.slot i).held = some h)
      (pending : h.nextDue = some due) (lifted : s.Lifted i u) (action : h'.action = h.action)
      (clock : due'.clock = due.clock) : Move s (u.pend i h' due')
  | converted {s : State} {i : SlotId} {h : Held} {k : Fin 4} {delay : Nat} {rearm : Rearm} (h' : Held) (n : Nat)
      (held : (s.slot i).held = some h) (capture : h'.action.trigger = .onCapture k delay rearm) :
      Move s ((s.uncollect i).pend i h' { clock := .mono, instant := n })
  | awaited {s u : State} {i : SlotId} {h h' : Held} {k : Fin 4} {delay : Nat} {rearm : Rearm}
      (held : (s.slot i).held = some h) (lifted : s.Lifted i u) (capture : h'.action.trigger = .onCapture k delay rearm) :
      Move s (u.await i h' k)
  | idled {s u : State} {i : SlotId} {h : Held} (h' : Held) (held : (s.slot i).held = some h) (lifted : s.Lifted i u) :
      Move s (u.setHeld i { h' with state := .idle, nextDue := none })
  | freed {s u : State} {i : SlotId} {h : Held} (held : (s.slot i).held = some h) (lifted : s.Lifted i u) :
      Move s (u.setSlot i { gen := (s.slot i).gen + 1, held := none })
  | counted {s : State} {i : SlotId} {h h' : Held} (held : (s.slot i).held = some h) (action : h'.action = h.action)
      (state : h'.state = h.state) (due : h'.nextDue = h.nextDue) :
      Move s ((s.setSched { s.sched with taken := i :: s.sched.taken,
                                         found := s.sched.found.filter (·.slot != i) }).setHeld i h')

/-- Any number of moves, one after the other. -/
abbrev State.Moves : State → State → Prop := Relation.ReflTransGen State.Move

theorem State.Quiet.moves {s t : State} (q : s.Quiet t) : s.Moves t := .single (.quiet q)

/-- Moves that begin with a quiet one; the moves come first, since they name the state between. -/
theorem moves_after_quiet {s t u : State} (m : t.Moves u) (q : s.Quiet t) : s.Moves u := q.moves.trans m

/-- Where the slots and the scheduler are untouched and the wall does not become UNSET, the table is quiet. -/
theorem State.Quiet.of_eq {s t : State} (slots : t.slots = s.slots) (sched : t.sched = s.sched)
    (wall : t.wall.state = .unset → s.wall.state = .unset) : s.Quiet t where
  slots := slots
  lists := by rw [sched]
  taken := by rw [sched]; exact List.Subset.refl _
  found := by rw [sched]
  wall := fun u => .inl (wall u)

theorem State.Quiet.of_eqs {s t : State} (slots : t.slots = s.slots) (sched : t.sched = s.sched)
    (wall : t.wall = s.wall) : s.Quiet t := .of_eq slots sched (by rw [wall]; exact id)

theorem State.OffersFrom.quiet {s t : State} (o : s.OffersFrom t) : s.Quiet t := .of_eqs o.slots o.sched o.wall

/-! ### Collections out of which a slot has been taken -/

theorem Sched.without_without (q : Sched) (i : SlotId) : (q.without i).without i = q.without i := by
  simp [Sched.without, List.filter_filter, Vector.map_map, Function.comp_def]

@[simp] theorem State.uncollect_uncollect (s : State) (i : SlotId) : (s.uncollect i).uncollect i = s.uncollect i :=
  congrArg s.setSched (s.sched.without_without i)

@[simp] theorem State.markTaken_sched (s : State) (i : SlotId) :
    (s.markTaken i).sched = { s.sched with taken := i :: s.sched.taken } := rfl

/-- A capture-wait set out of which a slot has been taken. -/
theorem Sched.without_waits (q : Sched) (i : SlotId) (k : Fin 4) :
    (q.without i).waits[k.val] = q.waits[k.val].filter (· != i) := by simp [Sched.without]

theorem State.Lifted.slot {s u : State} {i : SlotId} (l : s.Lifted i u) (j : SlotId) : u.slot j = s.slot j := by
  rcases l with rfl | rfl <;> rfl

theorem State.Lifted.wall {s u : State} {i : SlotId} (l : s.Lifted i u) : u.wall = s.wall := by
  rcases l with rfl | rfl <;> rfl

theorem State.Lifted.uncollect {s u : State} {i : SlotId} (l : s.Lifted i u) : u.uncollect i = u := by
  rcases l with rfl | rfl <;> simp

/-! ### The reports, the port and the command unit leave the table alone -/

theorem acceptAll_slots (base : Nat) (cs : List Completion) (s : State) : (acceptAll base s cs).slots = s.slots := by
  induction cs generalizing s with
  | nil => rfl
  | cons c cs ih => exact ih (acceptCompletion base s c)

theorem acceptAll_sched (base : Nat) (cs : List Completion) (s : State) : (acceptAll base s cs).sched = s.sched := by
  induction cs generalizing s with
  | nil => rfl
  | cons c cs ih => exact ih (acceptCompletion base s c)

theorem acceptAll_wall (base : Nat) (cs : List Completion) (s : State) : (acceptAll base s cs).wall = s.wall := by
  induction cs generalizing s with
  | nil => rfl
  | cons c cs ih => exact ih (acceptCompletion base s c)

theorem acceptAll_quiet (base : Nat) (cs : List Completion) (s : State) : s.Quiet (acceptAll base s cs) :=
  .of_eqs (acceptAll_slots base cs s) (acceptAll_sched base cs s) (acceptAll_wall base cs s)

theorem offerDones_quiet (s : State) (ds : List DoneReport) : s.Quiet (offerDones s ds) := (offerDones_offersFrom s ds).quiet

theorem fetchIfReady_quiet (s : State) : s.Quiet (fetchIfReady s) := .of_eqs rfl rfl rfl

theorem writeOnAcceptance_quietTable (n : Nat) (s : State) : s.Quiet (writeOnAcceptance n s) := .of_eqs rfl rfl rfl

theorem finish_quiet (base : Nat) (c : InHand) (a : Answer) : a.state.Quiet (finish base c a) :=
  .of_eqs (acceptAll_slots base _ a.state) (acceptAll_sched base _ a.state) (acceptAll_wall base _ a.state)

theorem checkDrain_quiet (s : State) : s.Quiet (checkDrain s) := by
  rcases checkDrain_cases s with e | ⟨-, e⟩ <;> rw [e] <;> exact .of_eqs rfl rfl rfl

/-- A wall whose slew has been stopped is UNSET only where it was. -/
theorem stopSlew_unset {s : State} (h : s.stopSlew.wall.state = .unset) : s.wall.state = .unset := by
  simp only [State.stopSlew, State.setCmd_wall, State.setWall_wall] at h
  split at h
  · cases h
  · exact h

theorem halt_quiet (s : State) (code : FaultCode) (address : Word) : s.Quiet (halt s code address) := by
  unfold halt
  split
  · exact .of_eqs rfl rfl rfl
  · exact ⟨rfl, rfl, List.Subset.refl _, List.Sublist.refl _, fun h => .inl (stopSlew_unset h)⟩

/-! ### The scheduler's operations are moves -/

theorem armSlot_moves {s : State} {i : SlotId} {h : Held} (now : Nat) (held : (s.slot i).held = some h)
    (idle : h.state = .idle) (wall : h.action.trigger.wallBound = true → s.wall.state ≠ .unset) :
    s.Moves (s.armSlot i h.action now) := .single (.armed now held idle wall)

theorem retire_move {s u : State} {i : SlotId} {h : Held} (h' : Held) (held : (s.slot i).held = some h)
    (lifted : s.Lifted i (u.uncollect i)) : s.Move (u.retire i h') := by
  have slot : u.slot i = s.slot i := lifted.slot i
  unfold State.retire
  split
  · unfold State.freeSlot
    rw [slot]
    exact .freed held lifted
  · exact .idled h' held lifted

theorem endRun_move {s u : State} {i : SlotId} {h : Held} (h' : Held) (held : (s.slot i).held = some h)
    (lifted : s.Lifted i (u.uncollect i)) : s.Move (u.endRun i h') := by
  unfold State.endRun
  split
  · next capture => exact .awaited held lifted capture
  · exact retire_move h' held lifted

/-- What names a live handle's contents. -/
theorem State.live_eq_some {s : State} {h : Handle} {x : Held} :
    s.live h = some x ↔ (s.slot h.slot).gen = h.gen ∧ (s.slot h.slot).held = some x := by
  unfold State.live; split <;> simp_all

theorem State.live_eq_none {s : State} {h : Handle} :
    s.live h = none ↔ (s.slot h.slot).held = none ∨ (s.slot h.slot).gen ≠ h.gen := by
  unfold State.live; split <;> simp_all

theorem follow_moves (s : State) (target : Handle) (completion : Nat) : s.Moves (s.follow target completion).1 := by
  unfold State.follow
  split
  · exact .refl
  · next h live =>
    split
    · exact .refl
    · next idle =>
      split
      · next delay after =>
        exact armSlot_moves completion (State.live_eq_some.mp live).2 (not_not.mp idle) (by simp [after, Trigger.wallBound])
      · exact .refl

theorem followOf_moves (s : State) (i : FireInst) (completion : Nat) : s.Moves (s.followOf i completion).1 := by
  unfold State.followOf
  split
  · exact follow_moves s _ completion
  · exact .refl

theorem offerIf_quiet (on : Bool) (s : State) (r : Report) (h : r.isCompletion = false) : s.Quiet (offerIf on s r) :=
  (offerIf_offersFrom on s r h).quiet

theorem completeEventOnly_moves (s : State) (i : FireInst) : s.Moves (completeEventOnly s i) :=
  (followOf_moves s i s.mono).trans (offerDones_quiet _ _).moves

theorem setChan_quiet (s : State) (ch : Fin 8) (c : Channel) : s.Quiet (s.setChan ch c) := .of_eqs rfl rfl rfl

theorem fireOccurrence_moves (s : State) (a : Action) (o : Occurrence) (lateness : Nat) :
    s.Moves (fireOccurrence s a o lateness) := by
  unfold fireOccurrence
  dsimp only
  split
  · exact ((setChan_quiet _ _ _).moves.trans (offerDones_quiet _ _).moves).trans (offerIf_quiet _ _ _ rfl).moves
  · exact (offerIf_quiet _ _ _ rfl).moves.trans (completeEventOnly_moves _ _)

theorem fireOrSkip_moves (s : State) (a : Action) (o : Occurrence) (lateness : Nat) :
    s.Moves (fireOrSkip s a o lateness) := by
  unfold fireOrSkip
  split
  · exact fireOccurrence_moves s a o lateness
  · exact (offerIf_quiet _ _ _ rfl).moves

theorem nextDueOf_clock {a : Action} {due next : Due} {missed : Nat} {left : Remaining}
    (h : nextDueOf a due missed left = some next) : next.clock = due.clock := by
  unfold nextDueOf at h
  split at h
  · cases h
  · split at h
    · cases h
    · dsimp only at h
      split at h
      · cases h; rfl
      · cases h

theorem takeEntry_moves (s : State) (i : SlotId) : s.Moves (takeEntry s i) := by
  unfold takeEntry
  split
  · exact .refl
  · next h held =>
    split
    · exact .refl
    · next due pending =>
      refine Relation.ReflTransGen.trans (.single ?_) (fireOrSkip_moves _ _ _ _)
      have lifted : s.Lifted i ((s.markTaken i).uncollect i) := .inr rfl
      split
      · next next e => exact .again held pending lifted rfl (nextDueOf_clock e)
      · exact endRun_move _ held (by rw [State.uncollect_uncollect]; exact lifted)

theorem takeMatch_moves (s : State) (m : Match) : s.Moves (takeMatch s m) := by
  unfold takeMatch
  dsimp only
  split
  · exact .refl
  · next h held =>
    refine Relation.ReflTransGen.trans (.single ?_) (fireOrSkip_moves _ _ _ _)
    split
    · refine endRun_move _ held (.inr ?_)
      simp [State.uncollect, State.setSched, Sched.without, List.filter_filter]
    · exact .counted held rfl rfl rfl

theorem takeOne_moves (s : State) (t : Taking) : s.Moves (takeOne s t) := by
  cases t with
  | entry i => exact takeEntry_moves s i
  | found m => exact takeMatch_moves s m

theorem takeAll_moves (s : State) : s.Moves (takeAll s) :=
  takeAll_induction (P := s.Moves) (fun _ t h => h.trans (takeOne_moves _ t)) s .refl

theorem offerSecond_moves (s : State) (second : Nat) : s.Moves (s.offerSecond second) := .single (.found s second)

theorem changeSchedule_moves (s : State) (forward : Bool) (landing : Option Nat) :
    s.Moves (changeSchedule s forward landing) := by
  unfold changeSchedule
  split
  · split
    · exact takeAll_moves s
    · exact .refl
  · split
    · exact (offerSecond_moves s _).trans (takeAll_moves _)
    · exact .refl

theorem convertSlot_moves (edge : Nat) (s : State) (i : SlotId) : s.Moves (convertSlot edge s i) := by
  unfold convertSlot
  split
  · exact .refl
  · next h held =>
    split
    · next capture => exact .single (.converted _ _ held capture)
    · exact .refl

theorem foldl_moves {f : State → SlotId → State} (step : ∀ (s : State) (i : SlotId), s.Moves (f s i)) (l : List SlotId)
    (s : State) : s.Moves (l.foldl f s) := by
  induction l generalizing s with
  | nil => exact .refl
  | cons i l ih => exact (step s i).trans (ih (f s i))

theorem convert_moves (s : State) (k : Fin 4) (edge : Nat) : s.Moves (convert s k edge) :=
  foldl_moves (convertSlot_moves edge) _ s

theorem loseSlot_moves (s : State) (i : SlotId) : s.Moves (loseSlot s i) := by
  unfold loseSlot
  split
  · exact .refl
  · next h held => exact .single (retire_move h held (.inl rfl))

/-! ### The loss of wall time -/

theorem retire_sched (s : State) (i : SlotId) (h : Held) : (s.retire i h).sched = s.sched.without i := by
  unfold State.retire
  split <;> rfl

theorem retire_slot_of_ne (s : State) {i j : SlotId} (h : Held) (ne : j ≠ i) : (s.retire i h).slot j = s.slot j := by
  unfold State.retire
  split
  · exact State.slot_setSlot_of_ne _ _ ne
  · exact State.slot_setHeld_of_ne _ _ ne

theorem Sched.mem_wallBound_without {q : Sched} {i j : SlotId} :
    j ∈ (q.without i).wallBound ↔ j ∈ q.wallBound ∧ j ≠ i := by
  simp only [Sched.wallBound, Sched.without, List.mem_append, List.mem_filter, bne_iff_ne]; tauto

/-- The removal of one slot takes it out of the wall-bound ones, unless it is FREE; no FREE slot is filled (R51). -/
theorem loseSlot_wallBound {s : State} {i j : SlotId} (h : j ∈ (loseSlot s i).sched.wallBound) :
    j ∈ s.sched.wallBound ∧ (j = i ∨ (s.slot j).held = none → ((loseSlot s i).slot j).held = none) := by
  unfold loseSlot at h ⊢
  split at h
  · next free =>
    refine ⟨h, ?_⟩
    rintro (rfl | none)
    · simpa using free
    · simpa [free] using none
  · next x held =>
    rw [retire_sched, Sched.mem_wallBound_without] at h
    refine ⟨h.1, ?_⟩
    rintro (e | none)
    · exact absurd e h.2
    · simpa [held, retire_slot_of_ne s x h.2] using none

/-- Once every wall-bound slot has been removed, only FREE slots can be left in the collections that wall time orders. -/
theorem foldl_loseSlot_wallBound (l : List SlotId) (s : State) {j : SlotId} (h : j ∈ (l.foldl loseSlot s).sched.wallBound) :
    j ∈ s.sched.wallBound ∧ (j ∈ l ∨ (s.slot j).held = none → ((l.foldl loseSlot s).slot j).held = none) := by
  induction l generalizing s with
  | nil => exact ⟨h, by simp⟩
  | cons i l ih =>
    obtain ⟨later, freed⟩ := ih (loseSlot s i) h
    obtain ⟨before, first⟩ := loseSlot_wallBound later
    refine ⟨before, ?_⟩
    rintro (mem | none)
    · rcases List.mem_cons.mp mem with rfl | mem
      · exact freed (.inr (first (.inl rfl)))
      · exact freed (.inl mem)
    · exact freed (.inr (first (.inr none)))

theorem stopSlew_quiet (s : State) : s.Quiet s.stopSlew := .of_eq rfl rfl stopSlew_unset


theorem dropSnap_quiet (s : State) : s.Quiet s.dropSnap := .of_eq rfl rfl id

theorem rangeEnd_moves (s : State) : s.Moves (rangeEnd s) := by
  unfold rangeEnd
  dsimp only
  have stopped : s.Moves s.stopSlew.dropSnap := (stopSlew_quiet s).moves.trans (dropSnap_quiet _).moves
  have removed := stopped.trans (foldl_moves loseSlot_moves s.sched.wallBound s.stopSlew.dropSnap)
  refine ((removed.trans (State.Quiet.moves ?_)).trans (offer_offersFrom _ _ rfl).quiet.moves).trans
    (acceptAll_quiet _ _ _).moves
  refine ⟨rfl, rfl, List.Subset.refl _, List.Sublist.refl _, fun _ => .inr fun j hj => ?_⟩
  obtain ⟨before, freed⟩ := foldl_loseSlot_wallBound _ _ hj
  exact freed (.inl before)

theorem setChoices_quiet (s : State) (n : Nat) : s.Quiet (s.setChoices n) := .of_eqs rfl rfl rfl

theorem wallChange_moves (s : State) (new : Nat) : s.Moves (wallChange s new).1 := by
  unfold wallChange
  dsimp only
  have moved : s.Moves (s.stopSlew.setWall { s.stopSlew.wall with
      state := .running, offset := (new : Int) - (s.mono : Int), lastSecond := wholeSecond new }) :=
    State.Quiet.moves (.of_eq rfl rfl (by rintro ⟨⟩))
  split
  · exact moved
  · split
    · exact moved.trans (changeSchedule_moves _ _ _)
    · split
      · have chosen := moved.trans (setChoices_quiet _ (s.choices + 1)).moves
        split
        · exact (chosen.trans (changeSchedule_moves _ _ _)).trans (rangeEnd_moves _)
        · exact chosen.trans (changeSchedule_moves _ _ _)
      · exact moved.trans (changeSchedule_moves _ _ _)

theorem applySnap_moves (s : State) : s.Moves (applySnap s) := by
  unfold applySnap
  split
  · exact .refl
  · dsimp only
    split
    · exact ((dropSnap_quiet s).moves.trans (wallChange_moves _ _)).trans (acceptAll_quiet _ _ _).moves
    · exact (dropSnap_quiet s).moves.trans (acceptAll_quiet _ _ _).moves

/-! ### The commands of the ring are moves -/

/-- A carry-out moves the table as its owner does. -/
theorem carryOut_moves {opcode : Byte} {s : State} {owner : InHand → State → Answer}
    (own : ∀ c, s.Moves (owner c s).state) : s.Moves (carryOut opcode s owner) := by
  unfold carryOut
  split
  · split
    · exact (own _).trans (finish_quiet _ _ _).moves
    · exact .refl
  · exact .refl

theorem armOwner_moves (c : InHand) (s : State) : s.Moves (armOwner c s).state := by
  unfold armOwner
  dsimp only
  split
  · exact .refl
  · next x live =>
    split
    · exact .refl
    · next idle =>
      split
      · exact .refl
      · next ready =>
        refine armSlot_moves s.mono (State.live_eq_some.mp live).2 (not_not.mp idle) fun bound unset => ready ?_
        simp [bound, Wall.active, unset]

theorem withdrawFrom_quiet (s : State) (h : Handle) (output : Option Output) (option : Withdraw) :
    s.Quiet (withdrawFrom s h output option).1 := by
  have withdrawn : ∀ (ch : Fin 8) (c : Channel) (ds : List DoneReport), s.Quiet (offerDones (s.setChan ch c) ds) := by
    intro ch c ds
    have told := offerDones_offersFrom (s.setChan ch c) ds
    exact .of_eqs told.slots told.sched told.wall
  unfold withdrawFrom
  split
  · exact withdrawn _ _ _
  · exact withdrawn _ _ _
  · exact .of_eqs rfl rfl rfl

theorem idle_moves {s : State} {i : SlotId} {h : Held} (held : (s.slot i).held = some h) : s.Moves (s.idle i h) :=
  .single (.idled h held (.inl rfl))

theorem disarmOwner_moves (c : InHand) (s : State) : s.Moves (disarmOwner c s).state := by
  unfold disarmOwner
  dsimp only
  split
  · exact .refl
  · next x live =>
    split
    · exact .refl
    · exact (idle_moves (State.live_eq_some.mp live).2).trans (withdrawFrom_quiet _ _ _ _).moves

theorem freeSlot_moves {s : State} {i : SlotId} {h : Held} (held : (s.slot i).held = some h) : s.Moves (s.freeSlot i) :=
  .single (.freed held (.inl rfl))

theorem releaseOwner_moves (c : InHand) (s : State) : s.Moves (releaseOwner c s).state := by
  unfold releaseOwner
  dsimp only
  split
  · exact .refl
  · next x live =>
    split
    · exact .refl
    · exact freeSlot_moves (State.live_eq_some.mp live).2

theorem queryOwner_state (c : InHand) (s : State) : (queryOwner c s).state = s := by
  unfold queryOwner
  dsimp only
  split <;> rfl

theorem suspendOwner_moves (c : InHand) (s : State) : s.Moves (suspendOwner c s).state := by
  unfold suspendOwner
  split
  · exact State.Quiet.moves ⟨rfl, rfl, List.Subset.refl _, List.Sublist.refl _, .inl⟩
  · exact .refl

theorem resumed_moves (s : State) : s.Moves (resumed s) := by
  have begun : s.Moves (takeAll (s.setSched { s.sched with state := .running, found := [] })) :=
    moves_after_quiet (takeAll_moves _) ⟨rfl, rfl, List.Subset.refl _, List.nil_sublist _, .inl⟩
  unfold resumed
  dsimp only
  split
  · exact (begun.trans (offerSecond_moves _ _)).trans (takeAll_moves _)
  · exact begun

theorem resumeOwner_moves (c : InHand) (s : State) : s.Moves (resumeOwner c s).state := by
  unfold resumeOwner
  split
  · exact resumed_moves s
  · exact .refl

theorem changeWith_moves (s : State) (new : Nat) (change : Option Int) : s.Moves (changeWith s new change).state :=
  wallChange_moves s new

theorem setTimeOwner_moves (c : InHand) (s : State) : s.Moves (setTimeOwner c s).state := by
  unfold setTimeOwner
  split
  · exact .refl
  · exact changeWith_moves _ _ _

theorem stepTimeOwner_moves (c : InHand) (s : State) : s.Moves (stepTimeOwner c s).state := by
  unfold stepTimeOwner
  split
  · exact .refl
  · split
    · exact .refl
    · exact changeWith_moves _ _ _

theorem adjustTimeOwner_moves (c : InHand) (s : State) : s.Moves (adjustTimeOwner c s).state := by
  have begun : s.Moves (beginSlew s c (deltaOf c.record)) := State.Quiet.moves (.of_eq rfl rfl (by rintro ⟨⟩))
  unfold adjustTimeOwner
  dsimp only
  split
  · exact .refl
  split
  · exact .refl
  split
  · exact .refl
  split
  · exact .refl
  split
  · exact .refl
  · exact begun

theorem snapTimeOwner_moves (c : InHand) (s : State) : s.Moves (snapTimeOwner c s).state := by
  unfold snapTimeOwner
  split
  · exact .refl
  · unfold snapNow
    split
    · exact .refl
    · dsimp only
      split
      · exact .refl
      · exact changeWith_moves _ _ _
  · next unit limit _ =>
    have begun : s.Moves (beginSnap s c unit limit) := State.Quiet.moves (.of_eq rfl rfl id)
    unfold snapNextRef
    split
    · exact .refl
    split
    · exact .refl
    split
    · exact .refl
    split
    · exact .refl
    · exact begun

theorem offerReference_quiet (s : State) (old : DiscState) : s.Quiet (offerReference s old) := by
  unfold offerReference
  dsimp only
  split
  · exact .of_eqs rfl rfl rfl
  · exact (offer_offersFrom s _ rfl).quiet

theorem configReferenceOwner_moves (c : InHand) (s : State) : s.Moves (configReferenceOwner c s).state := by
  unfold configReferenceOwner
  split
  · exact .refl
  · next f _ =>
    have configured : s.Moves (s.dropSnap.setTime (s.time.configure f)) := State.Quiet.moves (.of_eq rfl rfl id)
    exact configured.trans (offerReference_quiet _ _).moves

theorem configChannelOwner_moves (c : InHand) (s : State) : s.Moves (configChannelOwner c s).state := by
  unfold configChannelOwner
  split
  · exact .refl
  · exact (setChan_quiet _ _ _).moves.trans (offerDones_quiet _ _).moves

theorem flushChannelOwner_moves (c : InHand) (s : State) : s.Moves (flushChannelOwner c s).state := by
  unfold flushChannelOwner
  split
  · exact .refl
  · exact (setChan_quiet _ _ _).moves.trans (offerDones_quiet _ _).moves

theorem channelStatusOwner_state (c : InHand) (s : State) : (channelStatusOwner c s).state = s := by
  unfold channelStatusOwner
  split <;> rfl

theorem configCaptureOwner_moves (c : InHand) (s : State) : s.Moves (configCaptureOwner c s).state := by
  unfold configCaptureOwner
  split
  · exact .refl
  · exact State.Quiet.moves (.of_eqs rfl rfl rfl)

theorem captureStatusOwner_state (c : InHand) (s : State) : (captureStatusOwner c s).state = s := by
  unfold captureStatusOwner
  split <;> rfl

/-! ### The port's and the inputs' events are moves -/

theorem writeEnable1_quiet (s : State) : s.Quiet (writeEnable1 s) := by
  unfold writeEnable1
  split
  · split
    · dsimp only
      split
      · have halted := halt_quiet (s.setPort { s.port with
          configError := .none, crHead := 0, crTail := 0, rrHead := 0, rrTail := 0, phase := true }) .timelineEnd 0
        exact ⟨halted.slots, halted.lists, halted.taken, halted.found, halted.wall⟩
      · exact .of_eqs rfl rfl rfl
    · exact .of_eqs rfl rfl rfl
  · exact .of_eqs rfl rfl rfl

theorem writeEnable0_moves (s : State) : s.Moves (writeEnable0 s) := by
  unfold writeEnable0
  split
  · dsimp only
    have draining : s.Moves (((s.setPort { s.port with state := .draining }).stopSlew).dropSnap) :=
      State.Quiet.moves (.of_eq rfl rfl (stopSlew_unset (s := s)))
    exact ((draining.trans (acceptAll_quiet _ _ _).moves).trans (writeOnAcceptance_quietTable _ _).moves).trans
      (checkDrain_quiet _).moves
  · exact .refl

theorem writeCrTail_moves (s : State) (v : Word) : s.Moves (writeCrTail s v) := by
  unfold writeCrTail
  split
  · split
    · exact State.Quiet.moves (.of_eqs rfl rfl rfl)
    · exact (halt_quiet _ _ _).moves
  · exact .refl

theorem writeRrHead_moves (s : State) (v : Word) : s.Moves (writeRrHead s v) := by
  unfold writeRrHead
  split
  · dsimp only
    split
    · exact State.Quiet.moves (.of_eqs rfl rfl rfl)
    · exact (halt_quiet _ _ _).moves
  · exact .refl

theorem storeRing_moves (s : State) (p : Port) : s.Moves (storeRing s p) := by
  unfold storeRing
  split
  · exact State.Quiet.moves (.of_eqs rfl rfl rfl)
  · exact .refl

theorem setIrq_moves (s : State) (q : Irq) : s.Moves (s.setIrq q) := State.Quiet.moves (.of_eqs rfl rfl rfl)

/-- A register write moves the table, or is a soft reset. -/
theorem writeRegister_moves (s : State) (r : Reg) (v : Word) :
    s.Moves (writeRegister s r v) ∨ writeRegister s r v = softResetAll s := by
  cases r with
  | devId | devRev | status | faultCode | faultAddr | crHead | rrTail => exact .inl .refl
  | crBase | crSize | rrBase | rrSize => exact .inl (storeRing_moves _ _)
  | control =>
    unfold writeRegister
    dsimp only
    split
    · exact .inr rfl
    · split
      · exact .inl (writeEnable1_quiet s).moves
      · exact .inl (writeEnable0_moves s)
  | crTail => exact .inl (writeCrTail_moves s v)
  | rrHead => exact .inl (writeRrHead_moves s v)
  | intStatus | intEnable | intModeration => exact .inl (setIrq_moves _ _)

/-- The outcome of a command that takes place is the state it names. -/
theorem moves_of_next {s t u : State} (m : s.Moves u) (e : (.next u : Next) = .next t) : s.Moves t := by
  cases e; exact m

theorem fetchEnd_moves {ending : BusEnd 256} {s t : State} (e : execFetchEnd ending s = .next t) : s.Moves t := by
  refine moves_of_next ?_ e
  split
  · exact .refl
  · split
    · cases ending with
      | data r => exact State.Quiet.moves (.of_eqs rfl rfl rfl)
      | error => exact (halt_quiet _ _ _).moves
    · exact moves_after_quiet (checkDrain_quiet _).moves (.of_eqs rfl rfl rfl)

theorem reportWriteEnd_moves {busError : Bool} {s t : State} (e : execReportWriteEnd busError s = .next t) :
    s.Moves t := by
  refine moves_of_next ?_ e
  split
  · exact .refl
  · split
    · exact (halt_quiet _ _ _).moves
    · exact moves_after_quiet (checkDrain_quiet _).moves (.of_eqs rfl rfl rfl)

theorem setCap_quiet (s : State) (k : Fin 4) (c : Capture) : s.Quiet (s.setCap k c) := .of_eqs rfl rfl rfl

theorem acceptedEdge_moves (s : State) (k : Fin 4) (instant : Nat) (p : Polarity) : s.Moves (acceptedEdge s k instant p) := by
  unfold acceptedEdge
  dsimp only
  split <;> split
  · exact (setCap_quiet _ _ _).moves.trans (offer_offersFrom _ _ rfl).quiet.moves
  · exact (setCap_quiet _ _ _).moves
  · exact ((setCap_quiet _ _ _).moves.trans (offer_offersFrom _ _ rfl).quiet.moves).trans (convert_moves _ _ _)
  · exact (setCap_quiet _ _ _).moves.trans (convert_moves _ _ _)

theorem acceptCandidate_moves (s : State) (k : Fin 4) (x : Candidate) : s.Moves (acceptCandidate s k x) := by
  unfold acceptCandidate
  dsimp only
  split
  · exact (setCap_quiet _ _ _).moves.trans (acceptedEdge_moves _ _ _ _)
  · exact (setCap_quiet _ _ _).moves

theorem transition_moves {k : Fin 4} {s t : State} (e : execTransition k s = .next t) : s.Moves t := by
  refine moves_of_next ?_ e
  dsimp only
  split
  · exact .refl
  · split
    · exact (setCap_quiet _ _ _).moves
    · split
      · exact (setCap_quiet _ _ _).moves
      · split
        · exact (setCap_quiet _ _ _).moves
        · split
          · exact ((setCap_quiet _ _ _).moves.trans (acceptCandidate_moves _ _ _)).trans
              (writeOnAcceptance_quietTable _ _).moves
          · exact (setCap_quiet _ _ _).moves

theorem acceptance_moves {k : Fin 4} {s t : State} (e : execAcceptance k s = .next t) : s.Moves t := by
  refine moves_of_next ?_ e
  split
  · split
    · exact (acceptCandidate_moves _ _ _).trans (writeOnAcceptance_quietTable _ _).moves
    · exact .refl
  · exact .refl

theorem refEdge_moves {s t : State} (e : execRefEdge s = .next t) : s.Moves t := by
  have judged : s.Moves (offerReference (s.setTime s.time.edge.1) s.time.disc.state) :=
    moves_after_quiet (offerReference_quiet _ _).moves (.of_eqs rfl rfl rfl)
  have snapped : ∀ offered : Bool, s.Moves (if offered then
      applySnap (offerReference (s.setTime s.time.edge.1) s.time.disc.state)
      else offerReference (s.setTime s.time.edge.1) s.time.disc.state) := by
    rintro (_ | _)
    · exact judged
    · exact judged.trans (applySnap_moves _)
  exact moves_of_next ((snapped s.time.edge.2).trans (writeOnAcceptance_quietTable s.queued _).moves) e

theorem windowClose_moves {s t : State} (e : execWindowClose s = .next t) : s.Moves t := by
  refine moves_of_next ?_ e
  split
  · refine Relation.ReflTransGen.trans ?_ (writeOnAcceptance_quietTable _ _).moves
    exact moves_after_quiet (offerReference_quiet _ _).moves (.of_eqs rfl rfl rfl)
  · exact .refl

/-! ### The scheduler's and the clocks' events are moves -/

theorem expiry_moves {s t : State} (e : execExpiry s = .next t) : s.Moves t := by
  refine moves_of_next ?_ e
  split
  · split
    · split
      · exact (takeEntry_moves _ _).trans (writeOnAcceptance_quietTable _ _).moves
      · exact .refl
    · split
      · exact (takeMatch_moves _ _).trans (writeOnAcceptance_quietTable _ _).moves
      · exact .refl
    · exact .refl
  · exact .refl

theorem runningSecondBoundary_moves {s t : State} (e : execRunningSecondBoundary s = .next t) : s.Moves t := by
  refine moves_of_next ?_ e
  split
  · exact moves_after_quiet (offerSecond_moves _ _) (.of_eq rfl rfl id)
  · exact .refl

theorem slewStep_moves {s t : State} (e : execSlewStep s = .next t) : s.Moves t := by
  refine moves_of_next ?_ e
  split
  · split
    · next w _ =>
      have moved : s.Moves (s.stepped w) := State.Quiet.moves (.of_eq rfl rfl id)
      split
      · exact ((moved.trans (stopSlew_quiet _).moves).trans (acceptAll_quiet _ _ _).moves).trans
          (writeOnAcceptance_quietTable _ _).moves
      · exact moved
    · exact .refl
  · exact .refl

theorem waitEnd_moves {s t : State} (e : execWaitEnd s = .next t) : s.Moves t := by
  refine moves_of_next ?_ e
  split
  · exact ((dropSnap_quiet s).moves.trans (acceptAll_quiet _ _ _).moves).trans (writeOnAcceptance_quietTable _ _).moves
  · exact .refl

theorem rangeEndEvent_moves {s t : State} (e : execRangeEnd s = .next t) : s.Moves t := by
  refine moves_of_next ?_ e
  split
  · exact (rangeEnd_moves s).trans (writeOnAcceptance_quietTable _ _).moves
  · exact .refl

theorem completeRunning_moves (s : State) (ch : Fin 8) (r : Running) : s.Moves (completeRunning s ch r) :=
  ((followOf_moves s r.inst s.mono).trans (offerDones_quiet _ _).moves).trans (setChan_quiet _ _ _).moves

theorem phaseEnd_moves {ch : Fin 8} {s t : State} (e : execPhaseEnd ch s = .next t) : s.Moves t := by
  refine moves_of_next ?_ e
  split
  · split
    · exact (setChan_quiet _ _ _).moves
    · exact (completeRunning_moves _ _ _).trans (writeOnAcceptance_quietTable _ _).moves
    · exact .refl
  · exact .refl

theorem moderationExpiry_moves {s t : State} (e : execModerationExpiry s = .next t) : s.Moves t := by
  refine moves_of_next ?_ e
  split
  · exact setIrq_moves _ _
  · exact .refl

theorem monoExhaustion_moves {s t : State} (e : execMonoExhaustion s = .next t) : s.Moves t := by
  refine moves_of_next ?_ e
  split
  · exact moves_after_quiet (halt_quiet _ _ _).moves (.of_eqs rfl rfl rfl)
  · exact .refl

theorem fineUnit_moves {s t : State} (e : execFineUnit s = .next t) : s.Moves t := by
  refine moves_of_next ?_ e
  split
  · exact .refl
  · exact State.Quiet.moves ⟨rfl, rfl, List.nil_subset _, List.Sublist.refl _, .inl⟩

/-! ### What a command can do to the table -/

/-- A descriptor read's end fills a FREE slot, or leaves the table alone (R13). -/
theorem descriptorReadEnd_fills {ending : BusEnd 512} {s t : State} (e : execDescriptorReadEnd ending s = .next t) :
    s.Quiet t ∨ ∃ i a, (s.slot i).held = none ∧ (s.setHeld i (.fresh a)).Quiet t := by
  have same : s.Quiet s := .of_eqs rfl rfl rfl
  unfold execDescriptorReadEnd at e
  simp only [Host.Outcome.next.injEq] at e
  subst e
  split
  · next c _ =>
    cases ending with
    | error => exact .inl (finish_quiet _ _ (refuseWith s _ _))
    | data d =>
      dsimp only
      unfold defineFrom
      split
      · exact .inl (finish_quiet _ _ (badField s _ _))
      · next a _ =>
        split
        · exact .inl (finish_quiet _ _ (refuseWith s _ _))
        · next i found =>
          have free := List.find?_some found
          exact .inr ⟨i, a, by simpa using free, finish_quiet _ _ (okWith (s.setHeld i (.fresh a)) _)⟩
  · exact .inl same

theorem writeIfReady_quiet (s : State) : s.Quiet (writeIfReady s) := .of_eqs rfl rfl rfl

/-- Every command but a power-on reset moves the table, fills a FREE slot, or resets it softly. -/
theorem exec_moves {c : Instr} {s t : State} (on : ∀ lines, c ≠ .powerOnReset lines) (e : exec c s = .next t) :
    s.Moves t ∨ (∃ i a, (s.slot i).held = none ∧ (s.setHeld i (.fresh a)).Quiet t) ∨ t = softResetAll s := by
  cases c with
  | powerOnReset lines => exact absurd rfl (on lines)
  | softReset enable => cases e; exact .inr (.inr rfl)
  | registerWrite offset value =>
    change execRegisterWrite offset value s = .next t at e
    unfold execRegisterWrite at e
    split at e
    · cases e
      rcases writeRegister_moves s _ value with m | m
      · exact .inl m
      · exact .inr (.inr m)
    · cases e
  | descriptorReadEnd ending =>
    rcases descriptorReadEnd_fills e with q | f
    · exact .inl q.moves
    · exact .inr (.inl f)
  | nop => exact .inl (moves_of_next (carryOut_moves fun _ => .refl) e)
  | badOpcode =>
    refine .inl (moves_of_next ?_ e)
    split
    · split
      · exact (finish_quiet _ _ (refuseWith s _ _)).moves
      · exact .refl
    · exact .refl
  | defineAction =>
    refine .inl (moves_of_next ?_ e)
    split
    · split
      · split
        · exact (finish_quiet _ _ (refuseWith s _ _)).moves
        · exact State.Quiet.moves (.of_eqs rfl rfl rfl)
      · exact .refl
    · exact .refl
  | arm => exact .inl (moves_of_next (carryOut_moves fun c => armOwner_moves c s) e)
  | disarm => exact .inl (moves_of_next (carryOut_moves fun c => disarmOwner_moves c s) e)
  | release => exact .inl (moves_of_next (carryOut_moves fun c => releaseOwner_moves c s) e)
  | queryAction => exact .inl (moves_of_next (carryOut_moves fun c => by rw [queryOwner_state]) e)
  | suspend => exact .inl (moves_of_next (carryOut_moves fun c => suspendOwner_moves c s) e)
  | resume => exact .inl (moves_of_next (carryOut_moves fun c => resumeOwner_moves c s) e)
  | readTime => exact .inl (moves_of_next (carryOut_moves fun _ => .refl) e)
  | setTime => exact .inl (moves_of_next (carryOut_moves fun c => setTimeOwner_moves c s) e)
  | stepTime => exact .inl (moves_of_next (carryOut_moves fun c => stepTimeOwner_moves c s) e)
  | adjustTime => exact .inl (moves_of_next (carryOut_moves fun c => adjustTimeOwner_moves c s) e)
  | snapTime => exact .inl (moves_of_next (carryOut_moves fun c => snapTimeOwner_moves c s) e)
  | configReference => exact .inl (moves_of_next (carryOut_moves fun c => configReferenceOwner_moves c s) e)
  | configChannel => exact .inl (moves_of_next (carryOut_moves fun c => configChannelOwner_moves c s) e)
  | flushChannel => exact .inl (moves_of_next (carryOut_moves fun c => flushChannelOwner_moves c s) e)
  | channelStatus => exact .inl (moves_of_next (carryOut_moves fun c => by rw [channelStatusOwner_state]) e)
  | configCapture => exact .inl (moves_of_next (carryOut_moves fun c => configCaptureOwner_moves c s) e)
  | captureStatus => exact .inl (moves_of_next (carryOut_moves fun c => by rw [captureStatusOwner_state]) e)
  | fetchStart => exact .inl (moves_of_next (fetchIfReady_quiet s).moves e)
  | fetchEnd ending => exact .inl (fetchEnd_moves e)
  | reportWriteStart => exact .inl (moves_of_next (writeIfReady_quiet s).moves e)
  | reportWriteEnd busError => exact .inl (reportWriteEnd_moves e)
  | enableWrite1 => exact .inl (moves_of_next (writeEnable1_quiet s).moves e)
  | enableWrite0 => exact .inl (moves_of_next (writeEnable0_moves s) e)
  | crTailWrite value => exact .inl (moves_of_next (writeCrTail_moves s value) e)
  | rrHeadWrite value => exact .inl (moves_of_next (writeRrHead_moves s value) e)
  | intStatusWrite value | intEnableWrite value | intModerationWrite value =>
    exact .inl (moves_of_next (setIrq_moves s _) e)
  | refEdge => exact .inl (refEdge_moves e)
  | windowClose => exact .inl (windowClose_moves e)
  | transition input => exact .inl (transition_moves e)
  | acceptance input => exact .inl (acceptance_moves e)
  | expiry => exact .inl (expiry_moves e)
  | runningSecondBoundary => exact .inl (runningSecondBoundary_moves e)
  | slewStep => exact .inl (slewStep_moves e)
  | waitEnd => exact .inl (waitEnd_moves e)
  | rangeEnd => exact .inl (rangeEndEvent_moves e)
  | phaseEnd channel => exact .inl (phaseEnd_moves e)
  | moderationExpiry => exact .inl (moderationExpiry_moves e)
  | monoExhaustion => exact .inl (monoExhaustion_moves e)
  | fineUnit => exact .inl (fineUnit_moves e)

end Sys2Proof.Machine
end

section
/-! SUPPORT. A slot's generation (R3): each move of the table keeps a slot or frees it. -/

namespace Sys2Proof.Machine

/-- A slot is held as before under its generation, or was held and has become FREE under the next one (R3). -/
def Slot.KeptOrFreed (x y : Slot) : Prop :=
  (y.gen = x.gen ∧ y.held.isSome = x.held.isSome) ∨ (x.held.isSome = true ∧ y = { gen := x.gen + 1, held := none })

theorem Slot.KeptOrFreed.refl (x : Slot) : x.KeptOrFreed x := .inl ⟨rfl, rfl⟩

theorem Slot.KeptOrFreed.trans {x y z : Slot} (h : x.KeptOrFreed y) (k : y.KeptOrFreed z) : x.KeptOrFreed z := by
  rcases h with ⟨gen, held⟩ | ⟨was, rfl⟩
  · rcases k with ⟨gen', held'⟩ | ⟨was', rfl⟩
    · exact .inl ⟨gen'.trans gen, held'.trans held⟩
    · exact .inr ⟨held ▸ was', by rw [gen]⟩
  · rcases k with ⟨gen', held'⟩ | ⟨was', -⟩
    · refine .inr ⟨was, ?_⟩
      cases z
      simp_all
    · simp at was'

/-- A soft reset frees what is held (R24). -/
theorem Slot.softReset_keptOrFreed (x : Slot) : x.KeptOrFreed x.softReset := by
  unfold Slot.softReset
  split
  · next h held => exact .inr ⟨by simp [held], rfl⟩
  · exact .refl x

theorem softResetAll_slot (s : State) (i : SlotId) : (softResetAll s).slot i = (s.slot i).softReset := by
  simp [softResetAll, State.slot]

/-- The setting of a held slot's contents keeps it held. -/
theorem setHeld_keptOrFreed {s u : State} {i : SlotId} {h : Held} (held : (s.slot i).held = some h)
    (same : ∀ j, u.slot j = s.slot j) (h' : Held) (j : SlotId) : (s.slot j).KeptOrFreed ((u.setHeld i h').slot j) := by
  by_cases e : j = i
  · subst e
    rw [State.slot_setHeld_self, same]
    exact .inl ⟨rfl, by simp [held]⟩
  · rw [State.slot_setHeld_of_ne _ _ e, same]
    exact .refl _

theorem pend_keptOrFreed {s u : State} {i : SlotId} {h : Held} (held : (s.slot i).held = some h)
    (same : ∀ j, u.slot j = s.slot j) (h' : Held) (due : Due) (j : SlotId) :
    (s.slot j).KeptOrFreed ((u.pend i h' due).slot j) :=
  setHeld_keptOrFreed (u := u.setSched _) held same _ j

theorem armSlot_keptOrFreed {s : State} {i : SlotId} {h : Held} (held : (s.slot i).held = some h) (a : Action) (now : Nat)
    (j : SlotId) : (s.slot j).KeptOrFreed ((s.armSlot i a now).slot j) := by
  unfold State.armSlot
  dsimp only
  split
  · exact pend_keptOrFreed held (fun _ => rfl) _ _ j
  · exact pend_keptOrFreed held (fun _ => rfl) _ _ j
  · exact pend_keptOrFreed held (fun _ => rfl) _ _ j
  · exact setHeld_keptOrFreed (u := s.setSched _) held (fun _ => rfl) _ j
  · exact setHeld_keptOrFreed (u := s.setSched _) held (fun _ => rfl) _ j

theorem State.Move.keptOrFreed {s t : State} (m : s.Move t) (j : SlotId) : (s.slot j).KeptOrFreed (t.slot j) := by
  cases m with
  | quiet q => rw [State.slot_congr q.slots]; exact .refl _
  | found second =>
    have slots : (s.offerSecond second).slots = s.slots := by unfold State.offerSecond; split <;> rfl
    rw [State.slot_congr slots]; exact .refl _
  | armed now held _ _ => exact armSlot_keptOrFreed held _ now j
  | again held _ lifted _ _ => exact pend_keptOrFreed held lifted.slot _ _ j
  | converted h' n held _ => exact pend_keptOrFreed (u := s.uncollect _) held (fun _ => rfl) _ _ j
  | awaited held lifted _ => exact setHeld_keptOrFreed (u := State.setSched _ _) held lifted.slot _ j
  | idled h' held lifted => exact setHeld_keptOrFreed held lifted.slot _ j
  | freed held lifted =>
    rename_i u i _
    by_cases e : j = i
    · subst e
      rw [State.slot_setSlot_self]
      exact .inr ⟨by simp [held], rfl⟩
    · rw [State.slot_setSlot_of_ne _ _ e, lifted.slot]
      exact .refl _
  | counted held _ _ _ => exact setHeld_keptOrFreed (u := s.setSched _) held (fun _ => rfl) _ j

theorem moves_keptOrFreed {s t : State} (m : s.Moves t) (j : SlotId) : (s.slot j).KeptOrFreed (t.slot j) := by
  induction m with
  | refl => exact .refl _
  | tail _ step ih => exact ih.trans (step.keptOrFreed j)

/-- The statement of R3 for one slot that is kept or freed. -/
theorem Slot.KeptOrFreed.generation {x y : Slot} (h : x.KeptOrFreed y) :
    (y.gen ≠ x.gen ↔ x.held.isSome = true ∧ y.held = none) ∧ (y.gen ≠ x.gen → y.gen.val = (x.gen.val + 1) % 256) := by
  rcases h with ⟨gen, held⟩ | ⟨was, rfl⟩
  · refine ⟨⟨fun ne => absurd gen ne, fun ⟨was, free⟩ => ?_⟩, fun ne => absurd gen ne⟩
    rw [← held, free] at was
    cases was
  · have next : x.gen + 1 ≠ x.gen := by
      intro e
      have := congrArg Fin.val e
      rw [Fin.val_add] at this
      have := x.gen.isLt
      omega
    exact ⟨by simp [next, was], fun _ => by rw [Fin.val_add]; rfl⟩

/-- Settles O5: each move of the table keeps a slot or frees it, and a filled slot keeps its generation. -/
theorem generationChangesWhenTheSlotIsFreed : Obligations.GenerationChangesWhenTheSlotIsFreed := by
  intro c s t i on e
  rcases exec_moves on e with m | ⟨j, a, free, q⟩ | rfl
  · exact (moves_keptOrFreed m i).generation
  · rw [State.slot_congr q.slots]
    by_cases ij : i = j
    · subst ij; simp [free]
    · rw [State.slot_setHeld_of_ne _ _ ij]
      exact (Slot.KeptOrFreed.refl _).generation
  · rw [softResetAll_slot]
    exact (Slot.softReset_keptOrFreed _).generation

end Sys2Proof.Machine
end

section
/-! SUPPORT. Every move of the table keeps the collections sound (R2, R26, R29, R94, R98, R105, R139): what a slot's own
contents call for is said of one slot at a time, and what the lists owe to one another of the lists alone. -/

namespace Sys2Proof.Machine

/-! ### One slot, and the lists -/

/-- A slot stands in exactly the collection that its contents call for (R2, R26, R94, R139). -/
structure State.Stands (s : State) (i : SlotId) : Prop where
  mono : i ∈ s.sched.monoDue ↔
    ∃ h n, (s.slot i).held = some h ∧ h.state = .pending ∧ h.nextDue = some { clock := .mono, instant := n }
  wall : i ∈ s.sched.wallDue ↔
    ∃ h n, (s.slot i).held = some h ∧ h.state = .pending ∧ h.nextDue = some { clock := .wall, instant := n }
  patterns : i ∈ s.sched.patterns ↔ ∃ h, (s.slot i).held = some h ∧ h.state = .watching
  waits : ∀ k : Fin 4, i ∈ s.sched.waits[k.val] ↔
    ∃ h delay rearm, (s.slot i).held = some h ∧ h.state = .waiting ∧ h.action.trigger = .onCapture k delay rearm
  held : ∀ h, (s.slot i).held = some h → h.state ≠ .free ∧ (h.state = .pending ↔ h.nextDue.isSome = true)
  watching : ∀ h, (s.slot i).held = some h → h.state = .watching → h.action.trigger.isPattern = true
  waiting : ∀ h, (s.slot i).held = some h → h.state = .waiting → ∃ k delay rearm, h.action.trigger = .onCapture k delay rearm
  wallBound : ∀ h n, (s.slot i).held = some h → h.nextDue = some { clock := .wall, instant := n } →
    ∃ due, h.action.trigger = .atWall due
  monoBound : ∀ h n, (s.slot i).held = some h → h.nextDue = some { clock := .mono, instant := n } →
    h.action.trigger.wallBound = false

/-- What the collections owe to one another and to the wall, whatever the slots hold but their dues. -/
structure State.ListsSound (s : State) : Prop where
  monoOnce : s.sched.monoDue.Nodup
  wallOnce : s.sched.wallDue.Nodup
  patternsOnce : s.sched.patterns.Nodup
  waitsOnce : ∀ k : Fin 4, s.sched.waits[k.val].Nodup
  monoOrdered : s.sched.monoDue.Pairwise fun i j => s.dueOf i ≤ s.dueOf j
  wallOrdered : s.sched.wallDue.Pairwise fun i j => s.dueOf i ≤ s.dueOf j
  unset : s.wall.state = .unset → s.sched.wallDue = [] ∧ s.sched.patterns = []
  found : ∀ m ∈ s.sched.found, m.slot ∈ s.sched.patterns ∧ m.slot ∉ s.sched.taken
  foundOnce : (s.sched.found.map Match.slot).Nodup

theorem State.CollectionsSound.stands {s : State} (c : s.CollectionsSound) (i : SlotId) : s.Stands i where
  mono := c.mono i
  wall := c.wall i
  patterns := c.patterns i
  waits := fun k => c.waits k i
  held := c.held i
  watching := c.watching i
  waiting := c.waiting i
  wallBound := c.wallBound i
  monoBound := c.monoBound i

theorem State.CollectionsSound.lists {s : State} (c : s.CollectionsSound) : s.ListsSound where
  monoOnce := c.once.1
  wallOnce := c.once.2.1
  patternsOnce := c.once.2.2.1
  waitsOnce := c.once.2.2.2
  monoOrdered := c.ordered.1
  wallOrdered := c.ordered.2
  unset := c.unset
  found := c.found
  foundOnce := c.foundOnce

theorem State.CollectionsSound.of_stands {s : State} (stands : ∀ i, s.Stands i) (lists : s.ListsSound) :
    s.CollectionsSound where
  mono := fun i => (stands i).mono
  wall := fun i => (stands i).wall
  patterns := fun i => (stands i).patterns
  waits := fun k i => (stands i).waits k
  held := fun i => (stands i).held
  watching := fun i => (stands i).watching
  waiting := fun i => (stands i).waiting
  wallBound := fun i => (stands i).wallBound
  monoBound := fun i => (stands i).monoBound
  once := ⟨lists.monoOnce, lists.wallOnce, lists.patternsOnce, lists.waitsOnce⟩
  ordered := ⟨lists.monoOrdered, lists.wallOrdered⟩
  unset := lists.unset
  found := lists.found
  foundOnce := lists.foundOnce

/-- A slot's standing depends on its contents and on where it stands alone. -/
theorem State.Stands.congr {s t : State} {i : SlotId} (h : s.Stands i) (held : (t.slot i).held = (s.slot i).held)
    (mono : i ∈ t.sched.monoDue ↔ i ∈ s.sched.monoDue) (wall : i ∈ t.sched.wallDue ↔ i ∈ s.sched.wallDue)
    (patterns : i ∈ t.sched.patterns ↔ i ∈ s.sched.patterns)
    (waits : ∀ k : Fin 4, i ∈ t.sched.waits[k.val] ↔ i ∈ s.sched.waits[k.val]) : t.Stands i := by
  constructor
  case mono => rw [held, mono]; exact h.mono
  case wall => rw [held, wall]; exact h.wall
  case patterns => rw [held, patterns]; exact h.patterns
  case waits => intro k; rw [held, waits]; exact h.waits k
  all_goals rw [held]
  · exact h.held
  · exact h.watching
  · exact h.waiting
  · exact h.wallBound
  · exact h.monoBound

/-- A slot stands in no collection. -/
structure Sched.Absent (q : Sched) (i : SlotId) : Prop where
  mono : i ∉ q.monoDue
  wall : i ∉ q.wallDue
  patterns : i ∉ q.patterns
  waits : ∀ k : Fin 4, i ∉ q.waits[k.val]

/-- All is sound but for slot `i`, which stands in no collection, whatever it holds. -/
structure State.SoundBut (s : State) (i : SlotId) : Prop where
  stands : ∀ j, j ≠ i → s.Stands j
  absent : s.sched.Absent i
  lists : s.ListsSound

/-! ### Taking a slot out -/

theorem Sched.absent_without (q : Sched) (i : SlotId) : (q.without i).Absent i := by
  constructor
  case waits => intro k; simp [Sched.without_waits]
  all_goals simp [Sched.without]

theorem State.Stands.without {s u : State} {i j : SlotId} (h : s.Stands j) (ne : j ≠ i) (slot : u.slot j = s.slot j)
    (mono : u.sched.monoDue = s.sched.monoDue.filter (· != i)) (wall : u.sched.wallDue = s.sched.wallDue.filter (· != i))
    (patterns : u.sched.patterns = s.sched.patterns.filter (· != i))
    (waits : ∀ k : Fin 4, u.sched.waits[k.val] = s.sched.waits[k.val].filter (· != i)) : u.Stands j := by
  refine h.congr (by rw [slot]) ?_ ?_ ?_ fun k => ?_
  · simp [mono, ne]
  · simp [wall, ne]
  · simp [patterns, ne]
  · simp [waits, ne]

/-- A slot taken out of its collection leaves all others sound, also when it has had its occurrence (R28, R36). -/
theorem State.CollectionsSound.lifted {s u : State} {i : SlotId} (c : s.CollectionsSound) (l : s.Lifted i u) :
    u.SoundBut i := by
  have sched : u.sched = { s.sched.without i with taken := u.sched.taken } := by rcases l with rfl | rfl <;> rfl
  have taken : ∀ j, j ≠ i → j ∈ u.sched.taken → j ∈ s.sched.taken := by
    rcases l with rfl | rfl
    · exact fun _ _ h => h
    · intro j ne h
      exact (List.mem_cons.mp h).resolve_left ne
  have mono : u.sched.monoDue = s.sched.monoDue.filter (· != i) := by rw [sched]; rfl
  have wall : u.sched.wallDue = s.sched.wallDue.filter (· != i) := by rw [sched]; rfl
  have patterns : u.sched.patterns = s.sched.patterns.filter (· != i) := by rw [sched]; rfl
  have found : u.sched.found = s.sched.found.filter (·.slot != i) := by rw [sched]; rfl
  have waits : ∀ k : Fin 4, u.sched.waits[k.val] = s.sched.waits[k.val].filter (· != i) := by
    intro k; rw [sched]; exact s.sched.without_waits i k
  have due : u.dueOf = s.dueOf := by funext j; simp [State.dueOf, l.slot]
  have sl := c.lists
  refine ⟨fun j ne => (c.stands j).without ne (l.slot j) mono wall patterns waits, ?_, ?_⟩
  · have := s.sched.absent_without i
    rw [sched]
    exact ⟨this.mono, this.wall, this.patterns, this.waits⟩
  · constructor
    case monoOnce => rw [mono]; exact sl.monoOnce.filter _
    case wallOnce => rw [wall]; exact sl.wallOnce.filter _
    case patternsOnce => rw [patterns]; exact sl.patternsOnce.filter _
    case waitsOnce => intro k; rw [waits]; exact (sl.waitsOnce k).filter _
    case monoOrdered => rw [mono, due]; exact sl.monoOrdered.filter _
    case wallOrdered => rw [wall, due]; exact sl.wallOrdered.filter _
    case unset =>
      intro unset
      rw [l.wall] at unset
      simp [wall, patterns, sl.unset unset]
    case found =>
      intro m hm
      rw [found] at hm
      simp only [List.mem_filter, bne_iff_ne] at hm
      obtain ⟨mem, free⟩ := sl.found m hm.1
      exact ⟨by simp [patterns, mem, hm.2], fun t => free (taken _ hm.2 t)⟩
    case foundOnce =>
      rw [found]
      exact (List.filter_sublist.map Match.slot).nodup sl.foundOnce

/-- An IDLE action, like a FREE slot, stands in no collection. -/
theorem State.CollectionsSound.soundBut {s : State} {i : SlotId} (c : s.CollectionsSound)
    (rest : ∀ h, (s.slot i).held = some h → h.state = .idle) : s.SoundBut i where
  stands := fun j _ => c.stands j
  absent := by
    constructor
    case mono => rw [c.mono]; rintro ⟨h, n, held, state, -⟩; simp [rest h held] at state
    case wall => rw [c.wall]; rintro ⟨h, n, held, state, -⟩; simp [rest h held] at state
    case patterns => rw [c.patterns]; rintro ⟨h, held, state⟩; simp [rest h held] at state
    case waits => intro k; rw [c.waits]; rintro ⟨h, d, r, held, state, -⟩; simp [rest h held] at state
  lists := c.lists

/-! ### Placing a slot -/

/-- The order of a due list is that of the dues of its members alone. -/
theorem pairwise_dueOf_congr {s t : State} {l : List SlotId} (h : l.Pairwise fun i j => s.dueOf i ≤ s.dueOf j)
    (same : ∀ i ∈ l, t.dueOf i = s.dueOf i) : l.Pairwise fun i j => t.dueOf i ≤ t.dueOf j :=
  h.imp_of_mem fun {a b} ha hb le => by rw [same a ha, same b hb]; exact le

theorem insertDue_congr {key key' : SlotId → Nat} {i : SlotId} {due : Nat} {l : List SlotId}
    (same : ∀ j ∈ l, key' j = key j) : insertDue key' i due l = insertDue key i due l := by
  induction l with
  | nil => rfl
  | cons j rest ih =>
    rw [List.forall_mem_cons] at same
    simp only [insertDue, same.1, ih same.2]

/-- A slot that is given anew, in no collection, is sound when it is FREE, or IDLE without a due. -/
theorem State.SoundBut.resting {s : State} {i : SlotId} (b : s.SoundBut i) (x : Slot)
    (rest : ∀ h, x.held = some h → h.state = .idle ∧ h.nextDue = none) : (s.setSlot i x).CollectionsSound := by
  have other : ∀ j, j ≠ i → (s.setSlot i x).slot j = s.slot j := fun j ne => State.slot_setSlot_of_ne _ _ ne
  have due : ∀ j, j ≠ i → (s.setSlot i x).dueOf j = s.dueOf j := fun j ne => by simp [State.dueOf, other j ne]
  refine .of_stands (fun j => ?_) ?_
  · by_cases e : j = i
    · subst e
      have absent := b.absent
      constructor <;> simp only [State.slot_setSlot_self, State.setSlot_sched]
      case mono => simp only [absent.mono, false_iff]; rintro ⟨h, n, held, state, -⟩; simp [rest h held] at state
      case wall => simp only [absent.wall, false_iff]; rintro ⟨h, n, held, state, -⟩; simp [rest h held] at state
      case patterns => simp only [absent.patterns, false_iff]; rintro ⟨h, held, state⟩; simp [rest h held] at state
      case waits =>
        intro k; simp only [absent.waits, false_iff]; rintro ⟨h, d, r, held, state, -⟩; simp [rest h held] at state
      all_goals intro h; intros; simp_all
    · exact (b.stands j e).congr (by rw [other j e]) .rfl .rfl .rfl fun _ => .rfl
  · exact { b.lists with
      monoOrdered := pairwise_dueOf_congr b.lists.monoOrdered fun j hj => due j fun e => b.absent.mono (e ▸ hj)
      wallOrdered := pairwise_dueOf_congr b.lists.wallOrdered fun j hj => due j fun e => b.absent.wall (e ▸ hj) }

theorem State.dueOf_setHeld_of_ne {s : State} {i j : SlotId} (h : Held) (ne : j ≠ i) :
    (s.setHeld i h).dueOf j = s.dueOf j := by simp [State.dueOf, State.slot_setHeld_of_ne _ _ ne]

theorem State.dueOf_setHeld_self {s : State} {i : SlotId} {h : Held} {due : Due} (e : h.nextDue = some due) :
    (s.setHeld i h).dueOf i = due.instant := by simp [State.dueOf, e]

/-- Another slot stands where it stood when one slot joins a collection. -/
theorem State.Stands.joined {s : State} {q : Sched} {i j : SlotId} {x : Held} (h : s.Stands j) (ne : j ≠ i)
    (mono : j ∈ q.monoDue ↔ j ∈ s.sched.monoDue) (wall : j ∈ q.wallDue ↔ j ∈ s.sched.wallDue)
    (patterns : j ∈ q.patterns ↔ j ∈ s.sched.patterns)
    (waits : ∀ k : Fin 4, j ∈ q.waits[k.val] ↔ j ∈ s.sched.waits[k.val]) : ((s.setSched q).setHeld i x).Stands j :=
  h.congr (by rw [State.slot_setHeld_of_ne _ _ ne]; rfl) mono wall patterns waits

/-- A slot that joins the mono due list, PENDING with its due, leaves the collections sound (R26, R27). -/
theorem State.SoundBut.pend_mono {s : State} {i : SlotId} (b : s.SoundBut i) (h : Held) (n : Nat)
    (free : h.action.trigger.wallBound = false) : (s.pend i h { clock := .mono, instant := n }).CollectionsSound := by
  refine .of_stands (fun j => ?_) ?_
  · by_cases e : j = i
    · subst e
      have absent := b.absent
      constructor <;> simp only [State.pend, State.slot_setHeld_self, State.setHeld_sched, State.setSched_sched]
      case mono => simp [mem_insertDue]
      case wall => simp [absent.wall]
      case patterns => simp [absent.patterns]
      case waits => simp [absent.waits]
      all_goals grind [Trigger.wallBound]
    · exact (b.stands j e).joined e (by simp [mem_insertDue, e]) .rfl .rfl fun _ => .rfl
  · have due : ∀ j, j ≠ i → (s.pend i h { clock := .mono, instant := n }).dueOf j = s.dueOf j :=
      fun j ne => State.dueOf_setHeld_of_ne (s := s.setSched _) _ ne
    have own : (s.pend i h { clock := .mono, instant := n }).dueOf i = n :=
      State.dueOf_setHeld_self (s := s.setSched _) (due := ⟨_, n⟩) rfl
    have others : ∀ j ∈ s.sched.monoDue, j ≠ i := fun j hj e => b.absent.mono (e ▸ hj)
    exact { b.lists with
      monoOnce := nodup_insertDue b.lists.monoOnce b.absent.mono
      monoOrdered := by
        have joined := pairwise_insertDue (due := n)
          (pairwise_dueOf_congr b.lists.monoOrdered fun j hj => due j (others j hj)) own
        rwa [insertDue_congr fun j hj => due j (others j hj)] at joined
      wallOrdered := pairwise_dueOf_congr b.lists.wallOrdered fun j hj => due j fun e => b.absent.wall (e ▸ hj) }

/-- A slot that joins the wall due list, PENDING with its due, leaves the collections sound (R26, R27, R29). -/
theorem State.SoundBut.pend_wall {s : State} {i : SlotId} (b : s.SoundBut i) (h : Held) (n : Nat)
    (bound : ∃ due, h.action.trigger = .atWall due) (set : s.wall.state ≠ .unset) :
    (s.pend i h { clock := .wall, instant := n }).CollectionsSound := by
  refine .of_stands (fun j => ?_) ?_
  · by_cases e : j = i
    · subst e
      have absent := b.absent
      constructor <;> simp only [State.pend, State.slot_setHeld_self, State.setHeld_sched, State.setSched_sched]
      case mono => simp [absent.mono]
      case wall => simp [mem_insertDue]
      case patterns => simp [absent.patterns]
      case waits => simp [absent.waits]
      all_goals grind [Trigger.wallBound]
    · exact (b.stands j e).joined e .rfl (by simp [mem_insertDue, e]) .rfl fun _ => .rfl
  · have due : ∀ j, j ≠ i → (s.pend i h { clock := .wall, instant := n }).dueOf j = s.dueOf j :=
      fun j ne => State.dueOf_setHeld_of_ne (s := s.setSched _) _ ne
    have own : (s.pend i h { clock := .wall, instant := n }).dueOf i = n :=
      State.dueOf_setHeld_self (s := s.setSched _) (due := ⟨_, n⟩) rfl
    have others : ∀ j ∈ s.sched.wallDue, j ≠ i := fun j hj e => b.absent.wall (e ▸ hj)
    exact { b.lists with
      wallOnce := nodup_insertDue b.lists.wallOnce b.absent.wall
      monoOrdered := pairwise_dueOf_congr b.lists.monoOrdered fun j hj => due j fun e => b.absent.mono (e ▸ hj)
      wallOrdered := by
        have joined := pairwise_insertDue (due := n)
          (pairwise_dueOf_congr b.lists.wallOrdered fun j hj => due j (others j hj)) own
        rwa [insertDue_congr fun j hj => due j (others j hj)] at joined
      unset := fun u => absurd u set }

theorem nodup_insertSlot {i : SlotId} {l : List SlotId} (h : l.Nodup) (hi : i ∉ l) : (insertSlot i l).Nodup := by
  induction l with
  | nil => simp [insertSlot]
  | cons j rest ih =>
    simp only [List.nodup_cons] at h
    simp only [List.mem_cons, not_or] at hi
    unfold insertSlot
    split
    · simp [h.1, h.2, hi.1, hi.2]
    · rw [if_neg hi.1]
      refine List.nodup_cons.mpr ⟨?_, ih h.2 hi.2⟩
      rw [mem_insertSlot]
      rintro (e | mem)
      · exact hi.1 e.symm
      · exact h.1 mem

/-- A slot of a pattern that joins the pattern set, WATCHING, leaves the collections sound (R94). -/
theorem State.SoundBut.watch {s : State} {i : SlotId} (b : s.SoundBut i) (h : Held)
    (pattern : h.action.trigger.isPattern = true) (set : s.wall.state ≠ .unset) : (s.watch i h).CollectionsSound := by
  refine .of_stands (fun j => ?_) ?_
  · by_cases e : j = i
    · subst e
      have absent := b.absent
      constructor <;> simp only [State.watch, State.slot_setHeld_self, State.setHeld_sched, State.setSched_sched]
      case mono => simp [absent.mono]
      case wall => simp [absent.wall]
      case patterns => simp [mem_insertSlot]
      case waits => simp [absent.waits]
      all_goals grind [Trigger.wallBound]
    · exact (b.stands j e).joined e .rfl .rfl (by simp [mem_insertSlot, e]) fun _ => .rfl
  · have due : ∀ j, j ≠ i → (s.watch i h).dueOf j = s.dueOf j :=
      fun j ne => State.dueOf_setHeld_of_ne (s := s.setSched _) _ ne
    exact { b.lists with
      patternsOnce := nodup_insertSlot b.lists.patternsOnce b.absent.patterns
      monoOrdered := pairwise_dueOf_congr b.lists.monoOrdered fun j hj => due j fun e => b.absent.mono (e ▸ hj)
      wallOrdered := pairwise_dueOf_congr b.lists.wallOrdered fun j hj => due j fun e => b.absent.wall (e ▸ hj)
      unset := fun u => absurd u set
      found := fun m hm => ⟨mem_insertSlot.mpr (.inr (b.lists.found m hm).1), (b.lists.found m hm).2⟩ }

/-- A capture-wait set after one of the four has been given anew. -/
theorem waits_set (w : Vector (List SlotId) 4) (k j : Fin 4) (l : List SlotId) :
    (w.set k.val l)[j.val] = if j = k then l else w[j.val] := by
  by_cases e : j = k
  · subst e; simp
  · have : k.val ≠ j.val := fun h => e (Fin.ext h.symm)
    simp [e, this]

/-- A slot that joins the wait set of the input that its trigger names, WAITING, leaves the collections sound (R139). -/
theorem State.SoundBut.await {s : State} {i : SlotId} (b : s.SoundBut i) (h : Held) {k : Fin 4} {delay : Nat}
    {rearm : Rearm} (capture : h.action.trigger = .onCapture k delay rearm) : (s.await i h k).CollectionsSound := by
  have waits : ∀ j : Fin 4, (s.await i h k).sched.waits[j.val] =
      if j = k then s.sched.waits[k.val] ++ [i] else s.sched.waits[j.val] := fun j => waits_set _ k j _
  refine .of_stands (fun j => ?_) ?_
  · by_cases e : j = i
    · subst e
      have absent := b.absent
      constructor
      case waits =>
        intro l
        rw [waits]
        simp only [State.await, State.slot_setHeld_self]
        by_cases lk : l = k
        · subst lk; simp [capture]
        · simp [lk, capture, absent.waits, Ne.symm lk]
      all_goals simp only [State.await, State.slot_setHeld_self, State.setHeld_sched, State.setSched_sched]
      case mono => simp [absent.mono]
      case wall => simp [absent.wall]
      case patterns => simp [absent.patterns]
      all_goals grind [Trigger.wallBound]
    · refine (b.stands j e).joined e .rfl .rfl .rfl fun l => ?_
      rw [waits_set]
      split
      · next lk => subst lk; simp [e]
      · exact .rfl
  · have due : ∀ j, j ≠ i → (s.await i h k).dueOf j = s.dueOf j :=
      fun j ne => State.dueOf_setHeld_of_ne (s := s.setSched _) _ ne
    exact { b.lists with
      waitsOnce := by
        intro l
        rw [waits]
        split
        · exact List.Nodup.append (b.lists.waitsOnce k) (List.nodup_singleton i) (by simp [b.absent.waits])
        · exact b.lists.waitsOnce l
      monoOrdered := pairwise_dueOf_congr b.lists.monoOrdered fun j hj => due j fun e => b.absent.mono (e ▸ hj)
      wallOrdered := pairwise_dueOf_congr b.lists.wallOrdered fun j hj => due j fun e => b.absent.wall (e ▸ hj) }

/-! ### Every move keeps the collections sound -/

/-- The arming of an IDLE action places it as its trigger calls for (R14, table 1.7). -/
theorem State.SoundBut.armSlot {s : State} {i : SlotId} (b : s.SoundBut i) (a : Action) (now : Nat)
    (set : a.trigger.wallBound = true → s.wall.state ≠ .unset) : (s.armSlot i a now).CollectionsSound := by
  unfold State.armSlot
  dsimp only
  split
  · next due e => exact b.pend_mono _ _ (by simp [Held.fresh, e, Trigger.wallBound])
  · next due e => exact b.pend_wall _ _ ⟨due, e⟩ (set (by simp [e, Trigger.wallBound]))
  · next delay e => exact b.pend_mono _ _ (by simp [Held.fresh, e, Trigger.wallBound])
  · next p e => exact b.watch _ (by simp [Held.fresh, e, Trigger.isPattern]) (set (by simp [e, Trigger.wallBound]))
  · next input delay rearm e => exact b.await _ e

/-- A quiet event keeps the collections sound. -/
theorem State.CollectionsSound.quiet {s t : State} (c : s.CollectionsSound) (q : s.Quiet t) : t.CollectionsSound := by
  have slot : ∀ j, t.slot j = s.slot j := State.slot_congr q.slots
  have due : t.dueOf = s.dueOf := by funext j; simp [State.dueOf, slot]
  have mono : t.sched.monoDue = s.sched.monoDue := by rw [q.lists]
  have wall : t.sched.wallDue = s.sched.wallDue := by rw [q.lists]
  have patterns : t.sched.patterns = s.sched.patterns := by rw [q.lists]
  have waits : t.sched.waits = s.sched.waits := by rw [q.lists]
  have sl := c.lists
  refine .of_stands (fun j => ?_) ?_
  · exact (c.stands j).congr (by rw [slot]) (by rw [mono]) (by rw [wall]) (by rw [patterns]) fun k => by rw [waits]
  · constructor
    case monoOnce => rw [mono]; exact sl.monoOnce
    case wallOnce => rw [wall]; exact sl.wallOnce
    case patternsOnce => rw [patterns]; exact sl.patternsOnce
    case waitsOnce => rw [waits]; exact sl.waitsOnce
    case monoOrdered => rw [mono, due]; exact sl.monoOrdered
    case wallOrdered => rw [wall, due]; exact sl.wallOrdered
    case unset =>
      intro unset
      rw [wall, patterns]
      rcases q.wall unset with was | free
      · exact sl.unset was
      · have none : s.sched.wallBound = [] := List.eq_nil_iff_forall_not_mem.mpr fun i hi => by
          rcases List.mem_append.mp hi with mem | mem
          · obtain ⟨h, n, held, -⟩ := (c.wall i).mp mem
            rw [free i hi] at held; cases held
          · obtain ⟨h, held, -⟩ := (c.patterns i).mp mem
            rw [free i hi] at held; cases held
        exact List.append_eq_nil_iff.mp none
    case found =>
      intro m hm
      rw [patterns]
      obtain ⟨mem, free⟩ := sl.found m (q.found.subset hm)
      exact ⟨mem, fun taken => free (q.taken taken)⟩
    case foundOnce => exact (q.found.map Match.slot).nodup sl.foundOnce

/-- What an evaluation finds: one occurrence of each matching member without one at this instant (R98, R105). -/
theorem mem_evaluate {s : State} {second : Nat} {m : Match} (h : m ∈ s.evaluate second) :
    m.slot ∈ s.sched.patterns ∧ m.slot ∉ s.sched.taken ∧ ∀ n ∈ s.sched.found, n.slot ≠ m.slot := by
  obtain ⟨i, mem, rfl⟩ := List.mem_map.mp h
  simp only [List.mem_filter, Bool.and_eq_true, Bool.not_eq_true', List.contains_eq_mem, decide_eq_false_iff_not,
    List.any_eq_false, beq_iff_eq] at mem
  obtain ⟨pattern, ⟨-, taken⟩, found⟩ := mem
  exact ⟨pattern, taken, found⟩

theorem evaluate_slots_sublist (s : State) (second : Nat) :
    ((s.evaluate second).map Match.slot).Sublist s.sched.patterns := by
  simp only [State.evaluate, List.map_map, Function.comp_def, List.map_id']
  exact List.filter_sublist

/-- The occurrences that an evaluation finds join those found (R98). -/
theorem State.CollectionsSound.offerSecond {s : State} (c : s.CollectionsSound) (second : Nat) :
    (s.offerSecond second).CollectionsSound := by
  unfold State.offerSecond
  split
  · refine { c with found := ?_, foundOnce := ?_ }
    · intro m hm
      rcases List.mem_append.mp hm with old | new
      · exact c.found m old
      · obtain ⟨pattern, taken, -⟩ := mem_evaluate new
        exact ⟨pattern, taken⟩
    · show ((s.sched.found ++ s.evaluate second).map Match.slot).Nodup
      rw [List.map_append]
      refine List.Nodup.append c.foundOnce ((evaluate_slots_sublist s second).nodup c.lists.patternsOnce) ?_
      intro i old new
      obtain ⟨m, hm, rfl⟩ := List.mem_map.mp old
      obtain ⟨n, hn, e⟩ := List.mem_map.mp new
      exact (mem_evaluate hn).2.2 m hm e.symm
  · exact c

/-- A pattern occurrence that does not end the run: its slot stays WATCHING (R102, R103). -/
theorem State.CollectionsSound.counted {s : State} {i : SlotId} {h h' : Held} (c : s.CollectionsSound)
    (held : (s.slot i).held = some h) (action : h'.action = h.action) (state : h'.state = h.state)
    (nextDue : h'.nextDue = h.nextDue) :
    ((s.setSched { s.sched with taken := i :: s.sched.taken,
                                found := s.sched.found.filter (·.slot != i) }).setHeld i h').CollectionsSound := by
  have due : ∀ j, State.dueOf ((s.setSched { s.sched with
      taken := i :: s.sched.taken, found := s.sched.found.filter (·.slot != i) }).setHeld i h') j = s.dueOf j := by
    intro j
    by_cases e : j = i
    · subst e; simp [State.dueOf, held, nextDue]
    · exact State.dueOf_setHeld_of_ne (s := s.setSched _) _ e
  have sl := c.lists
  refine .of_stands (fun j => ?_) ?_
  · by_cases e : j = i
    · subst e
      have own := c.stands j
      have old : ∀ x, (s.slot j).held = some x ↔ x = h := fun x => by rw [held]; simp [eq_comm]
      constructor <;> simp only [State.slot_setHeld_self, State.setHeld_sched, State.setSched_sched, Option.some.injEq,
        exists_eq_left', forall_eq', action, state, nextDue, exists_and_left]
      case mono => simpa [old] using own.mono
      case wall => simpa [old] using own.wall
      case patterns => simpa [old] using own.patterns
      case waits => intro k; simpa [old] using own.waits k
      case held => exact own.held h held
      case watching => exact own.watching h held
      case waiting => exact own.waiting h held
      case wallBound => rintro _ n rfl; rw [nextDue, action]; exact own.wallBound h n held
      case monoBound => rintro _ n rfl; rw [nextDue, action]; exact own.monoBound h n held
    · exact (c.stands j).joined e .rfl .rfl .rfl fun _ => .rfl
  · exact { sl with
      monoOrdered := pairwise_dueOf_congr sl.monoOrdered fun j _ => due j
      wallOrdered := pairwise_dueOf_congr sl.wallOrdered fun j _ => due j
      found := by
        intro m hm
        simp only [State.setHeld_sched, State.setSched_sched, List.mem_filter, bne_iff_ne] at hm
        obtain ⟨mem, free⟩ := sl.found m hm.1
        exact ⟨mem, by simp [hm.2, free]⟩
      foundOnce := (List.filter_sublist.map Match.slot).nodup sl.foundOnce }

/-- A due keeps its clock when a run goes on, so that its slot joins the list it came from (R40). -/
theorem State.CollectionsSound.again {s u : State} {i : SlotId} {h h' : Held} {due due' : Due} (c : s.CollectionsSound)
    (held : (s.slot i).held = some h) (pending : h.nextDue = some due) (lifted : s.Lifted i u)
    (action : h'.action = h.action) (clock : due'.clock = due.clock) : (u.pend i h' due').CollectionsSound := by
  obtain ⟨k, n⟩ := due
  obtain ⟨k', n'⟩ := due'
  obtain rfl : k' = k := clock
  cases k' with
  | mono => exact (c.lifted lifted).pend_mono h' n' (by rw [action]; exact c.monoBound i h n held pending)
  | wall =>
    refine (c.lifted lifted).pend_wall h' n' (by rw [action]; exact c.wallBound i h n held pending) ?_
    rw [lifted.wall]
    intro unset
    have state : h.state = .pending := (c.held i h held).2.mpr (by simp [pending])
    have mem := (c.wall i).mpr ⟨h, n, held, state, pending⟩
    simp [(c.unset unset).1] at mem

theorem State.CollectionsSound.move {s t : State} (c : s.CollectionsSound) (m : s.Move t) : t.CollectionsSound := by
  cases m with
  | quiet q => exact c.quiet q
  | found second => exact c.offerSecond second
  | armed now held idle wall =>
    exact (c.soundBut fun x hx => by rw [held] at hx; cases hx; exact idle).armSlot _ now wall
  | again held pending lifted action clock => exact c.again held pending lifted action clock
  | converted h' n held capture =>
    exact (c.lifted (.inl rfl)).pend_mono h' n (by rw [capture]; rfl)
  | awaited held lifted capture => exact (c.lifted lifted).await _ capture
  | idled h' held lifted =>
    exact (c.lifted lifted).resting _ fun x hx => by cases hx; exact ⟨rfl, rfl⟩
  | freed held lifted => exact (c.lifted lifted).resting _ fun x hx => by cases hx
  | counted held action state due => exact c.counted held action state due

theorem State.CollectionsSound.moves {s t : State} (c : s.CollectionsSound) (m : s.Moves t) : t.CollectionsSound := by
  induction m with
  | refl => exact c
  | tail _ step ih => exact ih.move step

/-- With every slot FREE and every collection empty, all is sound. -/
theorem State.collectionsSound_of_free {s : State} (free : ∀ i, (s.slot i).held = none) (mono : s.sched.monoDue = [])
    (wall : s.sched.wallDue = []) (patterns : s.sched.patterns = []) (waits : ∀ k : Fin 4, s.sched.waits[k.val] = [])
    (found : s.sched.found = []) : s.CollectionsSound := by
  constructor <;> simp [free, mono, wall, patterns, waits, found]

theorem softResetAll_sound (s : State) : (softResetAll s).CollectionsSound := by
  have waits : ∀ k : Fin 4, (softResetAll s).sched.waits[k.val] = [] := fun k => by
    simp [softResetAll, Sched.softReset, Sched.reset]
  refine State.collectionsSound_of_free (fun i => ?_) rfl rfl rfl waits rfl
  rw [softResetAll_slot]
  unfold Slot.softReset
  split
  · rfl
  · assumption

theorem powerOn_sound (lines : Vector Level 4) (choices : Nat) (pending : List Instr) :
    (State.powerOn lines choices pending).CollectionsSound :=
  State.collectionsSound_of_free (fun i => by simp [State.powerOn, State.slot, Slot.reset]) rfl rfl rfl
    (fun k => by simp [State.powerOn, Sched.reset]) rfl

/-- Settles O11: each move of the table keeps the collections sound, and so do the filling of a FREE slot and both resets. -/
theorem slotsStandWhereTheirStateSays : Obligations.SlotsStandWhereTheirStateSays := by
  intro i s t c e
  by_cases on : ∀ lines, i ≠ .powerOnReset lines
  · rcases exec_moves on e with m | ⟨j, a, free, q⟩ | rfl
    · exact c.moves m
    · have placed : (s.setHeld j (.fresh a)).CollectionsSound :=
        (c.soundBut fun h held => by rw [free] at held; cases held).resting _ fun x hx => by cases hx; exact ⟨rfl, rfl⟩
      exact placed.quiet q
    · exact softResetAll_sound s
  · simp only [not_forall, not_not] at on
    obtain ⟨lines, rfl⟩ := on
    cases e
    exact powerOn_sound lines _ _

end Sys2Proof.Machine
end

section
/-! SUPPORT. The commands of the action table (Chapters 1 and 9): what each answers, and the whole of what it changes. -/

namespace Sys2Proof.Machine

/-! ### Resets -/

/-- Settles O3: every block of the power-on state is its reset value, and the registers read from it. -/
theorem powerOnResetGivesInitialValues : Obligations.PowerOnResetGivesInitialValues := by
  intro lines s
  refine ⟨.powerOn lines s.choices s.pending, rfl, fun i => ?_, rfl, rfl, rfl, rfl, fun k => ?_, rfl, rfl, rfl, rfl, rfl, rfl,
    rfl, rfl, rfl, rfl, fun ch => ?_, fun k => ?_, rfl, rfl, rfl, rfl, fun r => ?_⟩
  · simp [State.powerOn, State.slot, Slot.reset]
  · simp [State.powerOn, Sched.reset]
  · simp [State.powerOn, State.chan, Channel.reset]
  · simp [State.powerOn, State.cap, Capture.reset]
  · cases r with
    | intModeration => exact (by decide : ((0 : BitVec 16) ++ (0 : Byte) ++ (0 : Byte) : Word) = 0)
    | rrTail => simp [readRegister, State.powerOn, Port.reset]
    | _ => rfl

/-- Settles O59: each block's part in a soft reset, the slots, channels and inputs one by one. -/
theorem softResetResetsEveryBlock : Obligations.SoftResetResetsEveryBlock := by
  intro s enable
  have chan : ∀ ch, (softResetAll s).chan ch = (s.chan ch).park := fun ch => by simp [softResetAll, State.chan]
  refine ⟨softResetAll s, rfl, rfl, rfl, rfl, rfl, fun i free => ?_, fun i h held => ?_, rfl, rfl, rfl, rfl, fun k => ?_, rfl, rfl,
    rfl, fun ch off => ?_, fun ch on => ?_, fun k => ?_⟩
  · rw [softResetAll_slot]; simp [Slot.softReset, free]
  · rw [softResetAll_slot]; simp [Slot.softReset, held]
  · simp [softResetAll, Sched.softReset, Sched.reset]
  · rw [chan, Channel.park_of_disabled _ off]
  · rw [chan, Channel.park_of_enabled _ on]
  · simp [softResetAll, State.cap, Capture.softReset]

/-! ### Answers that change nothing else -/

/-- A command that its owner refuses, or answers from the state as it stands, changes nothing but by its answer (R170). -/
theorem carryOut_unchanged {opcode : Byte} {s : State} {c : InHand} {owner : InHand → State → Answer} {status : Status}
    {fieldNo : Option Nat} {results : Results} (h : s.holds c opcode)
    (answer : owner c s = { state := s, reply := .now status fieldNo results, ended := [] }) :
    (.next (carryOut opcode s owner) : Next) = .next (s.answered c status fieldNo results) :=
  congrArg _ (carryOut_now opcode s s c owner status fieldNo results h answer rfl)

theorem withdrawOf_invalid {r : Record} (h : 2 < (byteAt r 6).toNat) : withdrawOf r = .error 2 := by
  unfold withdrawOf
  split <;> simp_all

/-- Settles O18: each check of R4, R15, R16 and R18 in its order. -/
theorem handleCommandsAreChecked : Obligations.HandleCommandsAreChecked := by
  rintro s c _ rfl
  refine ⟨fun stale => ?_, fun x gen held => ?_⟩
  · have dead := State.live_eq_none.mpr stale
    refine ⟨fun hold => ?_, fun hold => ?_, fun hold => ?_, fun hold => ?_⟩
    · exact carryOut_unchanged hold (by simp [armOwner, dead, refuseWith])
    · exact carryOut_unchanged hold (by simp [disarmOwner, dead, refuseWith])
    · exact carryOut_unchanged hold (by simp [releaseOwner, dead, refuseWith])
    · exact carryOut_unchanged hold (by simp [queryOwner, dead, refuseWith])
  · have live := State.live_eq_some.mpr ⟨gen, held⟩
    refine ⟨fun busy => ⟨fun hold => ?_, fun hold => ?_⟩, fun hold idle unset bound => ?_, fun hold option => ?_⟩
    · exact carryOut_unchanged hold (by simp [armOwner, live, busy, refuseWith])
    · exact carryOut_unchanged hold (by simp [releaseOwner, live, busy, refuseWith])
    · have wallBound : x.action.trigger.wallBound = true := by
        rcases bound with ⟨due, e⟩ | ⟨p, e⟩ <;> rw [e] <;> rfl
      exact carryOut_unchanged hold (by simp [armOwner, live, idle, wallBound, Wall.active, unset, refuseWith])
    · exact carryOut_unchanged hold (by simp [disarmOwner, live, withdrawOf_invalid option, badField])

/-- Settles O22: what QUERY_ACTION reports is read from the slot and its channel as they stand. -/
theorem queryReportsTheSlot : Obligations.QueryReportsTheSlot := by
  rintro s c _ x hold rfl gen held
  have live := State.live_eq_some.mpr ⟨gen, held⟩
  refine carryOut_unchanged hold ?_
  simp only [queryOwner, live, okWith, queryOf]
  cases x.action.output with
  | none => rfl
  | some out =>
    have runs : (s.chan out.channel).runs (handleAt c.record 4) =
        decide ((s.chan out.channel).runningHandle = some (handleAt c.record 4)) :=
      Bool.eq_iff_iff.mpr (by simp [Channel.runs])
    simp only [Option.map_some, Channel.waitingOf, runs]

/-! ### Defining -/

/-- The lowest-numbered FREE slot is found (R13). -/
theorem freeSlot?_eq_some {s : State} {i : SlotId} (free : (s.slot i).held = none)
    (lowest : ∀ j, j < i → (s.slot j).held ≠ none) : s.freeSlot? = some i := by
  refine List.find?_eq_some_iff_getElem.mpr ⟨by simp [free], i.val, by simp, by simp, fun j hj => ?_⟩
  have := lowest ⟨j, by omega⟩ (Fin.lt_def.mpr hj)
  simpa [Option.isSome_iff_ne_none] using this

theorem freeSlot?_eq_none {s : State} (full : ∀ i, (s.slot i).held ≠ none) : s.freeSlot? = none := by
  refine List.find?_eq_none.mpr fun i _ => ?_
  simpa [Option.isSome_iff_ne_none] using full i

/-- The end of a descriptor read whose owner answers at once and leaves the report queue alone. -/
theorem descriptorReadEnd_data {s t : State} {c : InHand} {d : Descriptor} {status : Status} {fieldNo : Option Nat}
    {results : Results} (reading : s.cmd.state = .reading c)
    (answer : defineFrom s d = { state := t, reply := .now status fieldNo results, ended := [] })
    (quiet : t.reports = s.reports) :
    exec (.descriptorReadEnd (.data d)) s = .next (t.answered c status fieldNo results) := by
  show execDescriptorReadEnd (.data d) s = _
  have queued : s.queued = t.queued := by rw [State.queued, State.queued, quiet]
  simp only [execDescriptorReadEnd, reading, answer, queued, finish_now]

/-- Settles O15: the validated descriptor meets the table, and the other ends of a read change nothing in it. -/
theorem descriptorReadEndFillsASlotOrIsRefused : Obligations.DescriptorReadEndFillsASlotOrIsRefused := by
  refine ⟨fun s c d a i reading valid free lowest => ?_, fun s c => ⟨fun reading => ⟨?_, fun d n invalid => ?_,
    fun d a valid full => ?_⟩, fun elsewhere ending => ?_⟩⟩
  · exact descriptorReadEnd_data (t := s.setHeld i (.fresh a)) reading
      (by simp [defineFrom, valid, freeSlot?_eq_some free lowest, okWith]) rfl
  · show execDescriptorReadEnd .error s = _
    simp only [execDescriptorReadEnd, reading, refuseWith, finish_now]
  · exact descriptorReadEnd_data reading (by simp [defineFrom, invalid, badField]) rfl
  · exact descriptorReadEnd_data reading (by simp [defineFrom, valid, freeSlot?_eq_none full, refuseWith]) rfl
  · show execDescriptorReadEnd ending s = _
    rcases elsewhere with e | e <;> simp [execDescriptorReadEnd, e]

/-! ### Arming -/

/-- The placing of a slot with a mono due, written out (R27). -/
theorem State.pend_mono_eq (s : State) (i : SlotId) (h : Held) (n : Nat) :
    s.pend i h { clock := .mono, instant := n } =
      ({ s with sched := { s.sched with monoDue := s.joined i n s.sched.monoDue } } : State).withSlot i
        { gen := (s.slot i).gen, held := some { h with state := .pending, nextDue := some ⟨.mono, n⟩ } } := by
  rw [← insertDue_joined]; rfl

/-- The placing of a slot with a wall due, written out (R27). -/
theorem State.pend_wall_eq (s : State) (i : SlotId) (h : Held) (n : Nat) :
    s.pend i h { clock := .wall, instant := n } =
      ({ s with sched := { s.sched with wallDue := s.joined i n s.sched.wallDue } } : State).withSlot i
        { gen := (s.slot i).gen, held := some { h with state := .pending, nextDue := some ⟨.wall, n⟩ } } := by
  rw [← insertDue_joined]; rfl

@[simp] theorem State.slot_withSlot_self (s : State) (i : SlotId) (x : Slot) : (s.withSlot i x).slot i = x :=
  s.slot_setSlot_self i x

/-- ARM of an IDLE action that may be armed: the slot is placed, and the answer reads it there (R15). -/
theorem exec_arm_eq {s t : State} {c : InHand} {x y : Held} {gen : Fin 256} (hold : s.holds c 0x02)
    (live : s.live (handleAt c.record 4) = some x) (idle : x.state = .idle)
    (ready : x.action.trigger.wallBound = true → s.wall.state ≠ .unset)
    (placed : s.armSlot (handleAt c.record 4).slot x.action s.time.mono = t)
    (slot : t.slot (handleAt c.record 4).slot = { gen := gen, held := some y }) (quiet : t.reports = s.reports) :
    exec .arm s = .next (t.answered c .ok none (.armed (handleAt c.record 4) y.state y.nextDue)) := by
  refine congrArg _ (carryOut_now 0x02 s t c armOwner .ok none _ hold ?_ quiet)
  have notUnset : (x.action.trigger.wallBound && !s.wall.active) = false := by
    cases bound : x.action.trigger.wallBound
    · rfl
    · simp [Wall.active, ready bound]
  simp [armOwner, live, idle, notUnset, State.mono, placed, slot, okWith, Slot.state]

/-- Settles O17: the five triggers, each with its place in the collections. -/
theorem armPlacesByTrigger : Obligations.ArmPlacesByTrigger := by
  rintro s c _ x hold rfl gen held idle
  have live := State.live_eq_some.mpr ⟨gen, held⟩
  refine ⟨fun due e => ?_, fun delay e => ?_, fun due e set => ?_, fun p e set => ?_, fun k delay rearm e => ?_⟩
  · refine exec_arm_eq hold live idle (by simp [e, Trigger.wallBound]) ?_ (State.slot_withSlot_self _ _ _) rfl
    simp only [State.armSlot, e, State.pend_mono_eq, gen]; rfl
  · refine exec_arm_eq hold live idle (by simp [e, Trigger.wallBound]) ?_ (State.slot_withSlot_self _ _ _) rfl
    simp only [State.armSlot, e, State.pend_mono_eq, gen]; rfl
  · refine exec_arm_eq hold live idle (fun _ => set) ?_ (State.slot_withSlot_self _ _ _) rfl
    simp only [State.armSlot, e, State.pend_wall_eq, gen]; rfl
  · refine exec_arm_eq hold live idle (fun _ => set) ?_ (State.slot_withSlot_self _ _ _) rfl
    simp only [State.armSlot, e, ← gen]; rfl
  · refine exec_arm_eq hold live idle (by simp [e, Trigger.wallBound]) ?_ (State.slot_withSlot_self _ _ _) rfl
    simp only [State.armSlot, e, ← gen]; rfl

/-! ### Disarming and releasing -/

theorem bne_fun_eq (i : SlotId) : (fun j => j != i) = fun j => decide (j ≠ i) := by funext j; exact Bool.eq_iff_iff.mpr (by simp)

/-- The collections without a slot, as the statements write them (R28). -/
theorem Sched.without_eq (q : Sched) (i : SlotId) : q.without i =
    { q with monoDue := q.monoDue.filter (· ≠ i), wallDue := q.wallDue.filter (· ≠ i),
             patterns := q.patterns.filter (· ≠ i), waits := q.waits.map (List.filter (· ≠ i)),
             found := q.found.filter (·.slot ≠ i) } := by
  have found : (fun m : Match => m.slot != i) = fun m => decide (m.slot ≠ i) := by funext m; exact congrFun (bne_fun_eq i) m.slot
  simp only [Sched.without, bne_fun_eq, found]

/-- A slot that stands in no collection is not taken out of any. -/
theorem State.SoundBut.uncollect {s : State} {i : SlotId} (b : s.SoundBut i) : s.uncollect i = s := by
  have keep : ∀ l : List SlotId, i ∉ l → l.filter (· != i) = l := fun l h =>
    List.filter_eq_self.mpr fun j hj => by simpa using fun e : j = i => h (e ▸ hj)
  have mono := keep _ b.absent.mono
  have wall := keep _ b.absent.wall
  have patterns := keep _ b.absent.patterns
  have waits : (s.sched.waits.map fun w => w.filter (· != i)) = s.sched.waits := by
    refine Vector.ext fun k hk => ?_
    rw [Vector.getElem_map]
    exact keep _ (b.absent.waits ⟨k, hk⟩)
  have found : s.sched.found.filter (·.slot != i) = s.sched.found :=
    List.filter_eq_self.mpr fun m hm => by
      simpa using fun e : m.slot = i => b.absent.patterns (e ▸ (b.lists.found m hm).1)
  simp only [State.uncollect, Sched.without, mono, wall, patterns, waits, found]
  rfl

theorem withdrawOf_cases {r : Record} (h : (byteAt r 6).toNat ≤ 2) :
    byteAt r 6 = 0 ∧ withdrawOf r = .ok .none ∨ byteAt r 6 = 1 ∧ withdrawOf r = .ok .queued ∨
      byteAt r 6 = 2 ∧ withdrawOf r = .ok .all := by
  have values : (byteAt r 6).toNat = 0 ∨ (byteAt r 6).toNat = 1 ∨ (byteAt r 6).toNat = 2 := by omega
  rcases values with e | e | e
  · exact .inl ⟨BitVec.eq_of_toNat_eq e, by simp [withdrawOf, e]⟩
  · exact .inr (.inl ⟨BitVec.eq_of_toNat_eq e, by simp [withdrawOf, e]⟩)
  · exact .inr (.inr ⟨BitVec.eq_of_toNat_eq e, by simp [withdrawOf, e]⟩)

/-- An idled slot, as the statements write it (R22, R28). -/
theorem State.idle_eq (s : State) (i : SlotId) (h : Held) : s.idle i h =
    ({ s with sched := { s.sched with
        monoDue := s.sched.monoDue.filter (· ≠ i), wallDue := s.sched.wallDue.filter (· ≠ i),
        patterns := s.sched.patterns.filter (· ≠ i), waits := s.sched.waits.map (List.filter (· ≠ i)),
        found := s.sched.found.filter (·.slot ≠ i) } } : State).withSlot i
      { gen := (s.slot i).gen, held := some { h with state := .idle, nextDue := none } } := by
  unfold State.idle State.uncollect
  rw [Sched.without_eq]
  rfl

/-- Settles O19: nothing is withdrawn, by the option or for want of a channel. -/
theorem disarmMakesTheSlotIdle : Obligations.DisarmMakesTheSlotIdle := by
  rintro s c _ x hold rfl gen held valid nothing
  have live := State.live_eq_some.mpr ⟨gen, held⟩
  have quiet : ∀ option, withdrawOf c.record = .ok option →
      withdrawFrom (s.idle (handleAt c.record 4).slot x) (handleAt c.record 4) x.action.output option =
        (s.idle (handleAt c.record 4).slot x, 0, 0) := by
    intro option valid'
    rcases nothing with none | none
    · rcases withdrawOf_cases valid with ⟨-, e⟩ | ⟨e, -⟩ | ⟨e, -⟩
      · rw [e] at valid'; cases valid'; unfold withdrawFrom; split <;> simp_all
      · rw [none] at e; simp at e
      · rw [none] at e; simp at e
    · simp [withdrawFrom, none]
  have answer : disarmOwner c s =
      okWith (s.idle (handleAt c.record 4).slot x) (.disarmed (handleAt c.record 4) x.state 0 0) := by
    rcases withdrawOf_cases valid with ⟨-, e⟩ | ⟨-, e⟩ | ⟨-, e⟩ <;> simp [disarmOwner, live, e, quiet _ e]
  rw [← gen, ← State.idle_eq]
  exact congrArg _ (carryOut_now 0x03 s _ c disarmOwner .ok none _ hold answer rfl)

/-- Settles O21: a sound IDLE slot stands in no collection, so that only the slot changes. -/
theorem releaseFreesTheSlot : Obligations.ReleaseFreesTheSlot := by
  rintro s c _ x hold rfl gen held idle sound
  have live := State.live_eq_some.mpr ⟨gen, held⟩
  have alone : s.uncollect (handleAt c.record 4).slot = s :=
    (sound.soundBut fun y hy => by rw [held] at hy; cases hy; exact idle).uncollect
  have freed : s.freeSlot (handleAt c.record 4).slot = s.withSlot (handleAt c.record 4).slot
      { gen := ⟨((handleAt c.record 4).gen.val + 1) % 256, Nat.mod_lt _ (by decide)⟩, held := none } := by
    rw [State.freeSlot, alone, gen]; rfl
  rw [← freed]
  have answer : releaseOwner c s = okWith (s.freeSlot (handleAt c.record 4).slot) (.handleOnly (handleAt c.record 4)) := by
    simp [releaseOwner, live, idle]
  exact congrArg _ (carryOut_now 0x04 s _ c releaseOwner .ok none _ hold answer rfl)

end Sys2Proof.Machine
end

section
/-! SUPPORT. The validation of a descriptor (R7 to R12, tables 1.2 and 11.4), field by field: when the field is accepted, and
what it then holds. -/

namespace Sys2Proof.Machine

/-! ### Field 2, the trigger -/

/-- A pattern field's bytes as its row accepts them: a value of at most `top`, or ANY (R9). -/
def FieldAccepted (d : Descriptor) (i top : Nat) : Prop := (byteAt d i).toNat ≤ top ∨ byteAt d i = 0xFF

/-- What a pattern field holds: absent when its byte is ANY. -/
def optionalByte (d : Descriptor) (i : Nat) : Option Nat := if byteAt d i = 0xFF then none else some (byteAt d i).toNat

/-- The pattern data that R9 accepts. -/
def PatternAccepted (d : Descriptor) : Prop :=
  FieldAccepted d 8 59 ∧ FieldAccepted d 9 59 ∧ FieldAccepted d 10 23 ∧
    ((1 ≤ (byteAt d 11).toNat ∧ (byteAt d 11).toNat ≤ 31) ∨ (byteAt d 11).toNat = 0xFE ∨ (byteAt d 11).toNat = 0xFF) ∧
    (le16 d 12).setWidth 12 ≠ 0 ∧ (byteAt d 14).setWidth 7 ≠ 0

/-- The trigger data that table 1.3 accepts for the trigger kind. -/
def TriggerAccepted (d : Descriptor) : Prop :=
  ((byteAt d 0).toNat = 0 → (le64 d 8).toNat ≤ 2 ^ 52 - 1) ∧
    ((byteAt d 0).toNat = 1 → (le64 d 8).toNat ≤ 3155760000 * 2 ^ 20 - 1) ∧
    ((byteAt d 0).toNat = 2 ∨ (byteAt d 0).toNat = 4 → (le64 d 8).toNat ≤ 2 ^ 44) ∧
    ((byteAt d 0).toNat = 3 → PatternAccepted d) ∧
    ((byteAt d 0).toNat = 4 → (byteAt d 1).toNat ≤ 3 ∧ (byteAt d 2).toNat ≤ 1)

/-- The pattern that the bytes give (R9). -/
def patternValue (d : Descriptor) : Pattern :=
  { second := optionalByte d 8, minute := optionalByte d 9, hour := optionalByte d 10,
    day := if (byteAt d 11).toNat = 0xFF then .any else if (byteAt d 11).toNat = 0xFE then .last
      else .day (byteAt d 11).toNat,
    months := (le16 d 12).setWidth 12, weekdays := (byteAt d 14).setWidth 7 }

theorem byte_eq_iff {b v : Byte} : b = v ↔ b.toNat = v.toNat := BitVec.toNat_inj.symm

/-- A byte that is ANY lies above every other value of a pattern field. -/
theorem patternField_eq (d : Descriptor) (i top : Nat) [Decidable (FieldAccepted d i top)] :
    patternField top (byteAt d i).toNat = if FieldAccepted d i top then some (optionalByte d i) else none := by
  have value : (byteAt d i).toNat = 255 ↔ byteAt d i = 0xFF := (byte_eq_iff (v := 0xFF)).symm
  unfold patternField optionalByte
  by_cases any : byteAt d i = 0xFF
  · rw [if_pos (value.mpr any), if_pos (.inr any), if_pos any]
  · rw [if_neg (mt value.mp any), if_neg any]
    by_cases small : (byteAt d i).toNat ≤ top
    · rw [if_pos small, if_pos (.inl small)]
    · rw [if_neg small, if_neg fun h => h.elim small any]

theorem dayFieldOf_eq (x : Nat) : dayFieldOf x =
    if (1 ≤ x ∧ x ≤ 31) ∨ x = 0xFE ∨ x = 0xFF then
      some (if x = 0xFF then .any else if x = 0xFE then .last else .day x) else none := by
  unfold dayFieldOf
  by_cases any : x = 255
  · simp [any]
  · by_cases last : x = 254
    · simp [last]
    · simp [any, last]

theorem months_eq (d : Descriptor) : (d.extractLsb' 96 12 : BitVec 12) = (le16 d 12).setWidth 12 := by
  ext i hi
  simp only [le16, BitVec.getElem_setWidth, BitVec.getLsbD_extractLsb', BitVec.getElem_extractLsb']
  simp; omega

theorem weekdays_eq (d : Descriptor) : (d.extractLsb' 112 7 : BitVec 7) = (byteAt d 14).setWidth 7 := by
  ext i hi
  simp only [byteAt, BitVec.getElem_setWidth, BitVec.getLsbD_extractLsb', BitVec.getElem_extractLsb']
  simp; omega

theorem ite_some_eq {α : Type} {p : Prop} [Decidable p] {a b : α} (h : (if p then some a else none) = some b) : p ∧ a = b := by
  split at h
  · exact ⟨‹p›, Option.some.inj h⟩
  · cases h

/-- The pattern data is what the bytes give where R9 accepts it, and invalid elsewhere. -/
theorem patternOf_eq (d : Descriptor) [Decidable (PatternAccepted d)] :
    patternOf d = if PatternAccepted d then some (patternValue d) else none := by
  classical
  unfold patternOf
  simp only [patternField_eq, dayFieldOf_eq, months_eq, weekdays_eq]
  by_cases accepted : PatternAccepted d
  · obtain ⟨second, minute, hour, day, months, weekdays⟩ := id accepted
    simp only [if_pos accepted, if_pos second, if_pos minute, if_pos hour, if_pos day, if_neg (not_or.mpr ⟨months, weekdays⟩)]
    rfl
  · rw [if_neg accepted]
    split
    · next second minute hour day =>
      by_contra masks
      refine accepted ⟨(ite_some_eq second).1, (ite_some_eq minute).1, (ite_some_eq hour).1, (ite_some_eq day).1, ?_⟩
      exact not_or.mp fun zero => masks (if_pos zero)
    · rfl

theorem instantOf_eq (d : Descriptor) (top : Nat) :
    instantOf d top = if (le64 d 8).toNat ≤ top then some (le64 d 8).toNat else none := rfl

/-- An instant or delay is what its bytes give, up to the largest that table 1.3 accepts. -/
theorem instantOf_map (d : Descriptor) (top : Nat) (trigger : Nat → Trigger) :
    (¬ (le64 d 8).toNat ≤ top ∧ (instantOf d top).map trigger = none) ∨
      ((le64 d 8).toNat ≤ top ∧ (instantOf d top).map trigger = some (trigger (le64 d 8).toNat)) := by
  rw [instantOf_eq]
  by_cases h : (le64 d 8).toNat ≤ top
  · exact .inr ⟨h, by rw [if_pos h]; rfl⟩
  · exact .inl ⟨h, by rw [if_neg h]; rfl⟩

theorem below_of_lt {n x : Nat} (h : x < n) : below n x = some ⟨x, h⟩ := dif_pos h

theorem below_of_le {n x : Nat} (h : n ≤ x) : below n x = none := dif_neg (by omega)

theorem rearmOf_eq (b : Byte) :
    rearmOf b.toNat = if b.toNat ≤ 1 then some (if b = 0 then .once else .everyEdge) else none := by
  have zero : b = 0 ↔ b.toNat = 0 := byte_eq_iff
  simp only [zero]
  unfold rearmOf
  split
  · next e => simp [e]
  · next e => simp [e]
  · next no0 no1 =>
    have large : ¬ b.toNat ≤ 1 := by have := Ne.intro no0; have := Ne.intro no1; omega
    rw [if_neg large]

/-- A trigger as its kind and its bytes give it (table 1.3). -/
structure TriggerGiven (d : Descriptor) (t : Trigger) : Prop where
  atMono : (byteAt d 0).toNat = 0 → t = .atMono (le64 d 8).toNat
  atWall : (byteAt d 0).toNat = 1 → t = .atWall (le64 d 8).toNat
  after : (byteAt d 0).toNat = 2 → t = .after (le64 d 8).toNat
  pattern : (byteAt d 0).toNat = 3 → t = .pattern (patternValue d)
  onCapture : (byteAt d 0).toNat = 4 → ∀ k : Fin 4, k.val = (byteAt d 1).toNat →
    t = .onCapture k (le64 d 8).toNat (if byteAt d 2 = 0 then .once else .everyEdge)
  isPattern : t.isPattern = true ↔ (byteAt d 0).toNat = 3

/-- Field 2 is what the bytes give where table 1.3 accepts it, and invalid elsewhere (R8). -/
theorem triggerOf_cases {d : Descriptor} (kind : (byteAt d 0).toNat ≤ 4) :
    (¬ TriggerAccepted d ∧ triggerOf d = none) ∨ (TriggerAccepted d ∧ ∃ t, triggerOf d = some t ∧ TriggerGiven d t) := by
  classical
  have kinds : (byteAt d 0).toNat = 0 ∨ (byteAt d 0).toNat = 1 ∨ (byteAt d 0).toNat = 2 ∨ (byteAt d 0).toNat = 3 ∨
      (byteAt d 0).toNat = 4 := by omega
  unfold triggerOf TriggerAccepted
  rcases kinds with e | e | e | e | e <;> simp only [e]
  · rcases instantOf_map d Config.monoLast .atMono with ⟨large, trigger⟩ | ⟨small, trigger⟩
    · exact .inl ⟨by simpa using large, trigger⟩
    · exact .inr ⟨by simpa using small, _, trigger, by constructor <;> simp [e, Trigger.isPattern]⟩
  · rcases instantOf_map d Config.wallLast .atWall with ⟨large, trigger⟩ | ⟨small, trigger⟩
    · exact .inl ⟨by simpa using large, trigger⟩
    · exact .inr ⟨by simpa using small, _, trigger, by constructor <;> simp [e, Trigger.isPattern]⟩
  · rcases instantOf_map d Config.delayMax .after with ⟨large, trigger⟩ | ⟨small, trigger⟩
    · exact .inl ⟨by simpa using large, trigger⟩
    · exact .inr ⟨by simpa using small, _, trigger, by constructor <;> simp [e, Trigger.isPattern]⟩
  · rw [patternOf_eq]
    by_cases h : PatternAccepted d
    · exact .inr ⟨by simpa using h, .pattern (patternValue d), by simp only [if_pos h, Option.map_some],
        by constructor <;> simp [e, Trigger.isPattern]⟩
    · exact .inl ⟨by simpa using h, by simp only [if_neg h, Option.map_none]⟩
  · rw [rearmOf_eq, instantOf_eq]
    have bound : Config.delayMax = 2 ^ 44 := rfl
    by_cases input : (byteAt d 1).toNat < 4
    · by_cases delay : (le64 d 8).toNat ≤ Config.delayMax
      · by_cases rearm : (byteAt d 2).toNat ≤ 1
        · refine .inr ⟨by simp; omega, .onCapture ⟨(byteAt d 1).toNat, input⟩ (le64 d 8).toNat
            (if byteAt d 2 = 0 then .once else .everyEdge),
            by simp only [below_of_lt input, if_pos delay, if_pos rearm], ?_⟩
          constructor <;> simp [e, Trigger.isPattern, Fin.ext_iff, eq_comm]
        · exact .inl ⟨by simp; omega, by simp only [below_of_lt input, if_pos delay, if_neg rearm]⟩
      · exact .inl ⟨by simp; omega, by simp only [below_of_lt input, if_neg delay]⟩
    · exact .inl ⟨by simp; omega, by simp only [below_of_le (not_lt.mp input)]⟩

/-! ### Fields 3 to 9 -/

theorem periodOf_eq (t : Trigger) (x : Nat) : periodOf t x =
    if x = 0 ∨ (t.isPattern ≠ true ∧ 1024 ≤ x ∧ x ≤ 2 ^ 44) then some (if x = 0 then none else some x) else none := by
  unfold periodOf
  by_cases zero : x = 0
  · simp [zero]
  · by_cases pattern : t.isPattern = true
    · simp [zero, pattern]
    · simp [zero, pattern]

theorem countValid_eq (t : Trigger) (x count : Nat) : countValid t (if x = 0 then none else some x) count =
    decide (t.isPattern = true ∨ x ≠ 0 ∨ count = 1) := by
  unfold countValid
  by_cases zero : x = 0 <;> simp [zero, beq_eq_decide]

theorem latePolicyOf_eq (b : Byte) :
    latePolicyOf b.toNat = if b.toNat ≤ 1 then some (if b = 0 then .fireLate else .skip) else none := by
  have zero : b = 0 ↔ b.toNat = 0 := byte_eq_iff
  simp only [zero]
  unfold latePolicyOf
  split
  · next e => simp [e]
  · next e => simp [e]
  · next no0 no1 =>
    have large : ¬ b.toNat ≤ 1 := by have := Ne.intro no0; have := Ne.intro no1; omega
    rw [if_neg large]

theorem busyPolicyOf_eq (b : Byte) : busyPolicyOf b.toNat =
    if b.toNat ≤ 3 then some (if b = 0 then .queue else if b = 1 then .replace else if b = 2 then .flush else .drop)
    else none := by
  have zero : b = 0 ↔ b.toNat = 0 := byte_eq_iff
  have one : b = 1 ↔ b.toNat = 1 := byte_eq_iff
  have two : b = 2 ↔ b.toNat = 2 := byte_eq_iff
  simp only [zero, one, two]
  unfold busyPolicyOf
  split
  · next e => simp [e]
  · next e => simp [e]
  · next e => simp [e]
  · next e => simp [e]
  · next no0 no1 no2 no3 =>
    have large : ¬ b.toNat ≤ 3 := by
      have := Ne.intro no0; have := Ne.intro no1; have := Ne.intro no2; have := Ne.intro no3
      omega
    rw [if_neg large]

/-- The train parameters that R12 accepts. -/
def TrainAccepted (d : Descriptor) : Prop :=
  1 ≤ (le32 d 36).toNat ∧ (le32 d 36).toNat ≤ 2 ^ 24 - 1 ∧ 1 ≤ (le32 d 40).toNat ∧ (le32 d 40).toNat ≤ 2 ^ 24 - 1 ∧
    1 ≤ (le16 d 44).toNat

theorem trainOf_eq (d : Descriptor) [Decidable (TrainAccepted d)] : trainOf d =
    if TrainAccepted d then some (.train (le32 d 36).toNat (le32 d 40).toNat (le16 d 44).toNat) else none := by
  by_cases accepted : TrainAccepted d
  · rw [if_pos accepted]; exact if_pos accepted
  · rw [if_neg accepted]; exact if_neg accepted

/-- The operation that byte 5 and the train parameters name (R12). -/
def operationValue (d : Descriptor) : Operation :=
  if (byteAt d 5).toNat = 1 then .setHigh else if (byteAt d 5).toNat = 2 then .setLow
  else if (byteAt d 5).toNat = 3 then .toggle
  else .train (le32 d 36).toNat (le32 d 40).toNat (le16 d 44).toNat

/-- Field 8 as R12 accepts it where there is a channel. -/
def OperationAccepted (d : Descriptor) : Prop :=
  (1 ≤ (byteAt d 5).toNat ∧ (byteAt d 5).toNat ≤ 3) ∨ ((byteAt d 5).toNat = 4 ∧ TrainAccepted d)

/-- Field 8 names no operation, an accepted one, or is invalid (R12). -/
theorem operationOf_cases (d : Descriptor) :
    ((byteAt d 5).toNat = 0 ∧ operationOf d = some none) ∨
      ((byteAt d 5).toNat ≠ 0 ∧ OperationAccepted d ∧ operationOf d = some (some (operationValue d))) ∨
      ((byteAt d 5).toNat ≠ 0 ∧ ¬ OperationAccepted d ∧ operationOf d = none) := by
  classical
  unfold operationOf OperationAccepted operationValue
  split
  · next e => exact .inl ⟨e, rfl⟩
  · next e => exact .inr (.inl (by simp [e]))
  · next e => exact .inr (.inl (by simp [e]))
  · next e => exact .inr (.inl (by simp [e]))
  · next e =>
    rw [trainOf_eq]
    by_cases train : TrainAccepted d
    · exact .inr (.inl (by simp [e, train]))
    · exact .inr (.inr (by simp [e, train]))
  · next no0 no1 no2 no3 no4 =>
    refine .inr (.inr ⟨no0, ?_, rfl⟩)
    have := Ne.intro no0; have := Ne.intro no1; have := Ne.intro no2; have := Ne.intro no3; have := Ne.intro no4
    omega

/-- Fields 7 and 8 together: both absent, both present and accepted, or one of them is refused (R12). -/
theorem output_cases (d : Descriptor) :
    ((byteAt d 4).toNat = 0xFF ∧ channelOf (byteAt d 4).toNat = some none ∧
        outputOf d none = if (byteAt d 5).toNat = 0 then some none else none) ∨
      (∃ ch : Fin 8, ch.val = (byteAt d 4).toNat ∧ channelOf (byteAt d 4).toNat = some (some ch) ∧
        ((OperationAccepted d ∧ outputOf d (some ch) = some (some ⟨ch, operationValue d⟩)) ∨
          (¬ OperationAccepted d ∧ outputOf d (some ch) = none))) ∨
      (7 < (byteAt d 4).toNat ∧ (byteAt d 4).toNat ≠ 0xFF ∧ channelOf (byteAt d 4).toNat = none) := by
  by_cases absent : (byteAt d 4).toNat = 255
  · refine .inl ⟨absent, by simp [channelOf, absent], ?_⟩
    rcases operationOf_cases d with ⟨e, o⟩ | ⟨e, -, o⟩ | ⟨e, -, o⟩ <;> simp [outputOf, o, e]
  · by_cases named : (byteAt d 4).toNat < 8
    · refine .inr (.inl ⟨⟨_, named⟩, rfl, by simp [channelOf, absent, below_of_lt named], ?_⟩)
      rcases operationOf_cases d with ⟨e, o⟩ | ⟨e, accepted, o⟩ | ⟨e, refused, o⟩
      · exact .inr ⟨by simp [OperationAccepted, e], by simp [outputOf, o]⟩
      · exact .inl ⟨accepted, by simp [outputOf, o]⟩
      · exact .inr ⟨refused, by simp [outputOf, o]⟩
    · exact .inr (.inr ⟨by omega, absent, by simp [channelOf, absent, below_of_le (not_lt.mp named)]⟩)

/-! ### The whole descriptor -/

/-- The rows of table 1.2, by the number of the field: what each accepts. -/
def DescriptorAccepts (d : Descriptor) : Nat → Prop
  | 1 => (byteAt d 0).toNat ≤ 4
  | 2 => TriggerAccepted d
  | 3 => (le64 d 16).toNat = 0 ∨ ((byteAt d 0).toNat ≠ 3 ∧ 1024 ≤ (le64 d 16).toNat ∧ (le64 d 16).toNat ≤ 2 ^ 44)
  | 4 => (byteAt d 0).toNat = 3 ∨ (le64 d 16).toNat ≠ 0 ∨ (le16 d 24).toNat = 1
  | 6 => (byteAt d 3).toNat ≤ 1
  | 7 => (byteAt d 4).toNat ≤ 7 ∨ (byteAt d 4).toNat = 0xFF
  | 8 => if (byteAt d 4).toNat = 0xFF then (byteAt d 5).toNat = 0 else OperationAccepted d
  | 9 => (byteAt d 6).toNat ≤ 3
  | _ => True

/-- Fields 7 and 8 as their bytes give them. -/
structure OutputGiven (d : Descriptor) (o : Option Output) : Prop where
  absent : (byteAt d 4).toNat = 0xFF → o = none
  present : ∀ ch : Fin 8, ch.val = (byteAt d 4).toNat → o = some ⟨ch, operationValue d⟩

/-- The period as its bytes give it (R10). -/
def periodValue (d : Descriptor) : Option Nat := if (le64 d 16).toNat = 0 then none else some (le64 d 16).toNat

/-- The action that the bytes give, once the trigger and the output are read (table 11.4). -/
def actionOf (d : Descriptor) (t : Trigger) (o : Option Output) : Action :=
  { trigger := t
    period := periodValue d
    count := (le16 d 24).toNat
    lateLimit := (le32 d 28).toNat
    latePolicy := if byteAt d 3 = 0 then .fireLate else .skip
    output := o
    busy := if byteAt d 6 = 0 then .queue else if byteAt d 6 = 1 then .replace else if byteAt d 6 = 2 then .flush else .drop
    fireReports := (byteAt d 7).getLsbD 0
    doneReports := (byteAt d 7).getLsbD 1
    autoRelease := (byteAt d 7).getLsbD 2
    tag := le32 d 32
    followOn := followOnOf d }

/-- The validation from field 6 on, with what fields 1 to 4 gave. -/
def validateFrom6 (d : Descriptor) (t : Trigger) : Except Nat Action :=
  match latePolicyOf (byteAt d 3).toNat with
  | none => .error 6
  | some latePolicy =>
  match channelOf (byteAt d 4).toNat with
  | none => .error 7
  | some channel =>
  match outputOf d channel with
  | none => .error 8
  | some output =>
  match busyPolicyOf (byteAt d 6).toNat with
  | none => .error 9
  | some busy => .ok { actionOf d t output with latePolicy := latePolicy, busy := busy }

section
variable {d : Descriptor}

theorem validate_field1 (refused : ¬ DescriptorAccepts d 1) : validateDescriptor d = .error 1 :=
  if_pos (not_le.mp refused)

theorem validate_field2 (a1 : DescriptorAccepts d 1) (refused : ¬ DescriptorAccepts d 2) :
    validateDescriptor d = .error 2 := by
  rcases triggerOf_cases a1 with ⟨-, none⟩ | ⟨accepted, -⟩
  · simp only [validateDescriptor, if_neg (not_lt.mpr a1), none]
  · exact absurd accepted refused

/-- Beyond field 2 the trigger is the one that the bytes give. -/
theorem trigger_given (a1 : DescriptorAccepts d 1) (a2 : DescriptorAccepts d 2) :
    ∃ t, triggerOf d = some t ∧ TriggerGiven d t :=
  (triggerOf_cases a1).elim (fun h => absurd a2 h.1) fun h => h.2

variable {t : Trigger}

theorem validate_field3 (a1 : DescriptorAccepts d 1) (trigger : triggerOf d = some t) (given : TriggerGiven d t)
    (refused : ¬ DescriptorAccepts d 3) : validateDescriptor d = .error 3 := by
  have period : periodOf t (le64 d 16).toNat = none := by
    rw [periodOf_eq, if_neg]
    rw [Ne, given.isPattern]
    exact refused
  simp only [validateDescriptor, if_neg (not_lt.mpr a1), trigger, period]

theorem period_given (given : TriggerGiven d t) (a3 : DescriptorAccepts d 3) :
    periodOf t (le64 d 16).toNat = some (periodValue d) := by
  rw [periodOf_eq, if_pos]
  · rfl
  · rw [Ne, given.isPattern]
    exact a3

theorem count_given (given : TriggerGiven d t) :
    countValid t (periodValue d) (le16 d 24).toNat = true ↔ DescriptorAccepts d 4 := by
  rw [periodValue, countValid_eq, decide_eq_true_iff, given.isPattern]
  rfl

theorem validate_field4 (a1 : DescriptorAccepts d 1) (trigger : triggerOf d = some t) (given : TriggerGiven d t)
    (a3 : DescriptorAccepts d 3) (refused : ¬ DescriptorAccepts d 4) : validateDescriptor d = .error 4 := by
  have count := (Bool.eq_false_iff).mpr (mt (count_given given).mp refused)
  simp only [validateDescriptor, if_neg (not_lt.mpr a1), trigger, period_given given a3, count, Bool.not_false, if_true]

/-- With the trigger, the period and the count accepted, the validation goes on at field 6. -/
theorem validate_eq_from6 (a1 : DescriptorAccepts d 1) (trigger : triggerOf d = some t) (given : TriggerGiven d t)
    (a3 : DescriptorAccepts d 3) (a4 : DescriptorAccepts d 4) : validateDescriptor d = validateFrom6 d t := by
  simp only [validateDescriptor, if_neg (not_lt.mpr a1), trigger, period_given given a3, (count_given given).mpr a4,
    Bool.not_true, Bool.false_eq_true, if_false]
  rfl

theorem latePolicy_given (a6 : DescriptorAccepts d 6) :
    latePolicyOf (byteAt d 3).toNat = some (if byteAt d 3 = 0 then .fireLate else .skip) := by
  rw [latePolicyOf_eq]; exact if_pos a6

theorem validate_field6 (refused : ¬ DescriptorAccepts d 6) : validateFrom6 d t = .error 6 := by
  have late : latePolicyOf (byteAt d 3).toNat = none := by rw [latePolicyOf_eq]; exact if_neg refused
  simp only [validateFrom6, late]

theorem validate_field7 (a6 : DescriptorAccepts d 6) (refused : ¬ DescriptorAccepts d 7) :
    validateFrom6 d t = .error 7 := by
  rcases output_cases d with ⟨absent, -⟩ | ⟨ch, named, -⟩ | ⟨-, -, none⟩
  · exact absurd (.inr absent) refused
  · have := ch.isLt
    exact absurd (.inl (by omega)) refused
  · simp only [validateFrom6, latePolicy_given a6, none]

/-- Field 8 is accepted with field 7, and then both are what their bytes give, or it is refused (R12). -/
theorem output_given (a7 : DescriptorAccepts d 7) : ∃ channel, channelOf (byteAt d 4).toNat = some channel ∧
    ((¬ DescriptorAccepts d 8 ∧ outputOf d channel = none) ∨
      (DescriptorAccepts d 8 ∧ ∃ o, outputOf d channel = some o ∧ OutputGiven d o)) := by
  have byIte : DescriptorAccepts d 8 ↔
      if (byteAt d 4).toNat = 0xFF then (byteAt d 5).toNat = 0 else OperationAccepted d := .rfl
  rcases output_cases d with ⟨absent, channel, output⟩ | ⟨ch, named, channel, output⟩ | ⟨large, other, -⟩
  · refine ⟨none, channel, ?_⟩
    rw [byIte, if_pos absent, output]
    by_cases zero : (byteAt d 5).toNat = 0
    · refine .inr ⟨zero, none, if_pos zero, fun _ => rfl, fun ch e => ?_⟩
      have := ch.isLt
      omega
    · exact .inl ⟨zero, if_neg zero⟩
  · have present : (byteAt d 4).toNat ≠ 0xFF := by have := ch.isLt; omega
    refine ⟨some ch, channel, ?_⟩
    rw [byIte, if_neg present]
    rcases output with ⟨accepted, o⟩ | ⟨refused, o⟩
    · refine .inr ⟨accepted, _, o, fun e => absurd e present, fun ch' e => ?_⟩
      rw [Fin.ext (e.trans named.symm)]
    · exact .inl ⟨refused, o⟩
  · exact absurd a7 (by simp only [DescriptorAccepts]; omega)

theorem validate_field8 (a6 : DescriptorAccepts d 6) (a7 : DescriptorAccepts d 7) (refused : ¬ DescriptorAccepts d 8) :
    validateFrom6 d t = .error 8 := by
  obtain ⟨channel, present, ⟨-, none⟩ | ⟨accepted, -⟩⟩ := output_given a7
  · simp only [validateFrom6, latePolicy_given a6, present, none]
  · exact absurd accepted refused

/-- With every field up to field 8 accepted, field 9 decides: it is refused, or the action is the one that the bytes give. -/
theorem validate_field9 (a6 : DescriptorAccepts d 6) (a7 : DescriptorAccepts d 7) (a8 : DescriptorAccepts d 8) :
    (¬ DescriptorAccepts d 9 → validateFrom6 d t = .error 9) ∧
      (DescriptorAccepts d 9 → ∃ o, validateFrom6 d t = .ok (actionOf d t o) ∧ OutputGiven d o) := by
  obtain ⟨channel, present, ⟨refused, -⟩ | ⟨-, o, output, given⟩⟩ := output_given a7
  · exact absurd a8 refused
  · refine ⟨fun refused => ?_, fun a9 => ⟨o, ?_, given⟩⟩
    · have busy : busyPolicyOf (byteAt d 6).toNat = none := by rw [busyPolicyOf_eq]; exact if_neg refused
      simp only [validateFrom6, latePolicy_given a6, present, output, busy]
    · have busy := (busyPolicyOf_eq (byteAt d 6)).trans (if_pos a9)
      simp only [validateFrom6, latePolicy_given a6, present, output, busy]
      rfl

/-- The first field that its row does not accept gives its number (R7). -/
theorem validate_refuses (n : Nat) (refused : ¬ DescriptorAccepts d n) (before : ∀ m, m < n → DescriptorAccepts d m) :
    validateDescriptor d = .error n := by
  by_cases first : n = 1
  · subst first; exact validate_field1 refused
  have small : 0 < n ∧ n < 10 := by
    by_contra other
    refine refused ?_
    match n, other with
    | 0, _ => trivial
    | n + 10, _ => trivial
  have a1 := before 1 (by omega)
  by_cases second : n = 2
  · subst second; exact validate_field2 a1 refused
  obtain ⟨t, trigger, given⟩ := trigger_given a1 (before 2 (by omega))
  by_cases third : n = 3
  · subst third; exact validate_field3 a1 trigger given refused
  have a3 := before 3 (by omega)
  by_cases fourth : n = 4
  · subst fourth; exact validate_field4 a1 trigger given a3 refused
  rw [validate_eq_from6 a1 trigger given a3 (before 4 (by omega))]
  match n, refused, small with
  | 5, refused, _ => exact absurd trivial refused
  | 6, refused, _ => exact validate_field6 refused
  | 7, refused, _ => exact validate_field7 (before 6 (by omega)) refused
  | 8, refused, _ => exact validate_field8 (before 6 (by omega)) (before 7 (by omega)) refused
  | 9, refused, _ => exact (validate_field9 (before 6 (by omega)) (before 7 (by omega)) (before 8 (by omega))).1 refused

/-- When every row accepts, the action is the one that the bytes give (R7). -/
theorem validate_accepts (all : ∀ n, DescriptorAccepts d n) :
    ∃ t o, validateDescriptor d = .ok (actionOf d t o) ∧ TriggerGiven d t ∧ OutputGiven d o := by
  obtain ⟨t, trigger, given⟩ := trigger_given (all 1) (all 2)
  obtain ⟨o, valid, output⟩ := (validate_field9 (t := t) (all 6) (all 7) (all 8)).2 (all 9)
  exact ⟨t, o, (validate_eq_from6 (all 1) trigger given (all 3) (all 4)).trans valid, given, output⟩

end

/-- Settles O16: the rows of table 1.2 in their order, and the action that accepted bytes give. -/
theorem descriptorIsValidatedFieldByField : Obligations.DescriptorIsValidatedFieldByField := by
  intro d
  refine ⟨fun n refused before => validate_refuses n refused before, fun all => ?_⟩
  obtain ⟨t, o, valid, trigger, output⟩ := validate_accepts (d := d) all
  refine ⟨actionOf d t o, valid, trigger.atMono, trigger.atWall, trigger.after, trigger.pattern, trigger.onCapture, rfl, rfl, rfl,
    rfl, output.absent, output.present, rfl, rfl, rfl, rfl, rfl, fun absent => ?_, fun present => ?_⟩
  · exact if_neg (ne_true_of_eq_false absent)
  · exact ⟨handleAt d 26, if_pos present, rfl, rfl⟩

end Sys2Proof.Machine
end

section
/-! SUPPORT. The completion of a running channel's work with its follow-on request (R20, R118), and the withdrawal of a
DISARM (R16, R124). -/

namespace Sys2Proof.Machine

/-! ### The follow-on request -/

theorem follow_stale {s : State} {target : Handle} {completion : Nat}
    (dead : (s.slot target.slot).held = none ∨ (s.slot target.slot).gen ≠ target.gen) :
    s.follow target completion = (s, .stale) := by simp [State.follow, State.live_eq_none.mpr dead]

section
variable {s : State} {target : Handle} {completion : Nat} {h : Held}
  (held : (s.slot target.slot).held = some h) (gen : (s.slot target.slot).gen = target.gen)
include held gen

theorem follow_notIdle (busy : h.state ≠ .idle) : s.follow target completion = (s, .notIdle) := by
  simp [State.follow, State.live_eq_some.mpr ⟨gen, held⟩, busy]

theorem follow_notAfter (idle : h.state = .idle) (other : ∀ delay, h.action.trigger ≠ .after delay) :
    s.follow target completion = (s, .notAfter) := by
  rw [State.follow, State.live_eq_some.mpr ⟨gen, held⟩]
  dsimp only
  rw [if_neg (not_not.mpr idle)]
  split
  · next delay e => exact absurd e (other delay)
  · rfl

/-- A follow-on request that arms its action: the slot is PENDING at the completion instant plus the delay (R20). -/
theorem follow_armed {delay : Nat} (idle : h.state = .idle) (after : h.action.trigger = .after delay) :
    s.follow target completion =
      (({ s with sched := { s.sched with
            monoDue := s.joined target.slot (completion + delay) s.sched.monoDue } } : State).withSlot target.slot
          { gen := target.gen, held := some (h.action.begun .pending (some ⟨.mono, completion + delay⟩)) }, .armed) := by
  simp only [State.follow, State.live_eq_some.mpr ⟨gen, held⟩, idle, after, ne_eq, not_true_eq_false, if_false,
    State.armSlot, State.pend_mono_eq, gen]
  rfl

end

theorem followOf_some {s : State} {i : FireInst} {target : Handle} (e : i.followOn = some target) (completion : Nat) :
    s.followOf i completion = s.follow target completion := by rw [State.followOf, e]

theorem followOf_none {s : State} {i : FireInst} (e : i.followOn = none) (completion : Nat) :
    s.followOf i completion = (s, .none) := by rw [State.followOf, e]

/-- The DONE report of an ended one is offered when its done reports are on or its follow-on request failed (R125). -/
theorem offerDones_done (s : State) (i : FireInst) (channel : Option (Fin 8)) (reason : EndReason) (start : Option Nat)
    (ending pulses : Nat) (outcome : FollowOutcome) :
    offerDones s (i.done channel reason start ending pulses outcome) =
      if (i.doneReports || outcome.failed) = true then
        offer s (.done { handle := i.handle, tag := i.tag, channel := channel, reason := reason, start := start,
                         ending := ending, pulses := pulses, followOn := outcome })
      else s := by
  unfold FireInst.done
  split <;> rfl

/-! ### The completion of a running one -/

/-- The level operations as R116 gives them. -/
theorem Channel.start_level {c : Channel} {now : Nat} {i : FireInst} {op : Option Operation} (e : i.operation = op)
    (notTrain : ∀ p sp n, op ≠ some (.train p sp n)) : c.start now i =
      { c with state := .space, level := c.level.after op,
               running := some { inst := i, start := now, pulses := 0, phaseEnd := now } } := by
  subst e
  unfold Channel.start
  split
  · next p sp n e => exact absurd e (notTrain p sp n)
  · rfl

theorem Channel.start_train {c : Channel} {now : Nat} {i : FireInst} {p sp n : Nat}
    (e : i.operation = some (.train p sp n)) : c.start now i =
      { c with state := .pulse, running := some { inst := i, start := now, pulses := 1, phaseEnd := now + p } } := by
  simp [Channel.start, e]

/-- What starts next, or that nothing does (R115, R116, R118). -/
theorem Channel.startNext_succeededBy (c : Channel) (now : Nat) : c.succeededBy now (c.startNext now) := by
  refine ⟨fun empty => by simp [Channel.startNext, empty], fun i rest queue => ⟨fun p sp n train => ?_, fun level op => ?_⟩⟩
  · simp [Channel.startNext, queue, Channel.start_train train]
  · rcases op with ⟨op, rfl⟩ | ⟨op, rfl⟩ | ⟨op, rfl⟩ <;>
      simp [Channel.startNext, queue, Channel.start_level op, Level.after]

/-- A phase end completes a level operation, and a train after its last space (R117). -/
theorem Channel.nextPhase_of_complete {c : Channel} {now : Nat} {r : Running} (running : c.running = some r)
    (complete : (∀ p sp n, r.inst.operation ≠ some (.train p sp n)) ∨
      ∃ p sp n, r.inst.operation = some (.train p sp n) ∧ c.state = .space ∧ n ≤ r.pulses) : c.nextPhase now = none := by
  simp only [Channel.nextPhase, running]
  rcases complete with level | ⟨p, sp, n, train, space, all⟩
  · split
    · next p sp n e => exact absurd e (level p sp n)
    · rfl
  · simp [train, space, not_lt.mpr all]

theorem armSlot_chans (s : State) (i : SlotId) (a : Action) (now : Nat) : (s.armSlot i a now).chans = s.chans := by
  unfold State.armSlot
  dsimp only
  split <;> rfl

theorem followOf_chans (s : State) (i : FireInst) (completion : Nat) : (s.followOf i completion).1.chans = s.chans := by
  unfold State.followOf State.follow
  split
  · split
    · rfl
    · split
      · rfl
      · split
        · exact armSlot_chans _ _ _ _
        · rfl
  · rfl

/-- PHASE_END of an instant that completes the running one: its request, its report, and the next start (R118). -/
theorem exec_phaseEnd_complete {s asked : State} {ch : Fin 8} {r : Running} {outcome : FollowOutcome}
    (on : s.time.exhausted = false) (running : (s.chan ch).running = some r) (due : r.phaseEnd = s.time.mono)
    (complete : (∀ p sp n, r.inst.operation ≠ some (.train p sp n)) ∨
      ∃ p sp n, r.inst.operation = some (.train p sp n) ∧ (s.chan ch).state = .space ∧ n ≤ r.pulses)
    (follow : s.followOf r.inst s.time.mono = (asked, outcome)) :
    exec (.phaseEnd ch) s = .next (s.writeStarted
      ((offerDones asked (r.inst.done (some ch) .completed (some r.start) s.time.mono r.pulses outcome)).withChan ch
        ((s.chan ch).startNext s.time.mono))) := by
  have now : (!s.time.exhausted && (s.chan ch).phaseDue s.mono) = true := by
    simp [on, Channel.phaseDue, running, due, State.mono]
  have chans : (offerDones asked (r.inst.done (some ch) .completed (some r.start) s.time.mono r.pulses outcome)).chan ch =
      s.chan ch := by
    refine State.chan_congr ((offerDones_offersFrom _ _).chans.trans ?_) ch
    have := followOf_chans s r.inst s.time.mono
    rwa [follow] at this
  show execPhaseEnd ch s = _
  simp only [execPhaseEnd, now, if_true, Channel.nextPhase_of_complete running complete, running, writeOnAcceptance_eq]
  rw [completeRunning, State.mono, follow]
  simp only [chans]
  rfl

/-- Settles O49: the four answers to the follow-on request, and then the next start. -/
theorem completionArmsTheFollowOn : Obligations.CompletionArmsTheFollowOn := by
  intro s ch r target on running due complete followOn
  refine ⟨(s.chan ch).startNext s.time.mono, Channel.startNext_succeededBy _ _, fun dead => ?_, fun h held gen =>
    ⟨fun busy => ?_, fun idle other => ?_, fun delay idle after => ?_⟩⟩
  · rw [exec_phaseEnd_complete on running due complete ((followOf_some followOn _).trans (follow_stale dead)),
      offerDones_done, if_pos (by simp [FollowOutcome.failed])]
  · rw [exec_phaseEnd_complete on running due complete ((followOf_some followOn _).trans (follow_notIdle held gen busy)),
      offerDones_done, if_pos (by simp [FollowOutcome.failed])]
  · rw [exec_phaseEnd_complete on running due complete ((followOf_some followOn _).trans (follow_notAfter held gen idle other)),
      offerDones_done, if_pos (by simp [FollowOutcome.failed])]
  · rw [exec_phaseEnd_complete on running due complete ((followOf_some followOn _).trans (follow_armed held gen idle after)),
      offerDones_done]
    simp only [FollowOutcome.failed, Bool.or_false]

/-! ### The withdrawal of a DISARM -/

/-- With room for every one of them, and none lost before, reports offered join the queue in their order (R180, R182). -/
theorem offerAll_room (rs : List Report) (s : State) (running : s.port.state = .running) (lost : s.reports.lost = 0)
    (room : s.reports.records.length + s.reports.reservations + rs.length ≤ 32) :
    (offerAll s rs).reports.records = s.reports.records ++ rs := by
  induction rs generalizing s with
  | nil => simp [offerAll]
  | cons r rs ih =>
    simp only [List.length_cons] at room
    have margin : 1 ≤ s.reports.margin := by
      simp only [ReportQueue.margin, ReportQueue.free, Config.queueRoom]; omega
    have accepted : offer s r = s.append r := by simp [offer, running, margin, lost]
    show (offerAll (offer s r) rs).reports.records = _
    rw [accepted, ih (s.append r) running lost (by simp; omega)]
    simp

/-- The reports of waiting ones withdrawn: of those whose done reports are on, oldest first (R124, R125). -/
theorem discardReports_eq (ch : Fin 8) (now : Nat) (reason : EndReason) (is : List FireInst) :
    discardReports ch now reason is = (is.filter (·.doneReports)).map fun i =>
      { handle := i.handle, tag := i.tag, channel := some ch, reason := reason, start := none, ending := now, pulses := 0,
        followOn := .none } := by
  induction is with
  | nil => rfl
  | cons i is ih =>
    have one : discardReports ch now reason (i :: is) =
        i.done (some ch) reason none now 0 .none ++ discardReports ch now reason is := rfl
    rw [one, ih, FireInst.done]
    by_cases on : i.doneReports = true <;> simp [on, FollowOutcome.failed]

/-- Whether option ALL withdraws the running one too, which carries the handle in full (R124). -/
theorem Channel.runs_iff {c : Channel} {h : Handle} : c.runs h = true ↔ ∃ r, c.running = some r ∧ r.inst.handle = h := by
  simp [Channel.runs, Channel.runningHandle]

section
variable (c : Channel) (ch : Fin 8) (now : Nat) (h : Handle) (all : Bool)

theorem Channel.withdraw_waiting : (c.withdraw ch now h all).waiting = c.queue.countP fun i => i.handle == h := by
  rw [List.countP_eq_length_filter]
  unfold Channel.withdraw
  dsimp only
  split <;> rfl

theorem Channel.withdraw_running : (c.withdraw ch now h all).running = if (all && c.runs h) = true then 1 else 0 := by
  unfold Channel.withdraw
  dsimp only
  split <;> rfl

theorem Channel.withdraw_channel : (c.withdraw ch now h all).channel =
    if (all && c.runs h) = true then { c with queue := c.queue.filter fun i => i.handle != h }.startNext now
    else { c with queue := c.queue.filter fun i => i.handle != h } := by
  unfold Channel.withdraw
  dsimp only
  split <;> rfl

/-- The withdrawn are reported, the running one first (R124). -/
theorem Channel.withdraw_dones : (c.withdraw ch now h all).dones =
    (if (all && c.runs h) = true then c.abortReports ch now .withdrawn else []) ++
      discardReports ch now .withdrawn (c.queue.filter fun i => i.handle == h) := by
  unfold Channel.withdraw
  dsimp only
  split <;> rfl

end

/-- The DONE report of a running one withdrawn, where it carries the handle and its done reports are on (R124, R125). -/
def stoppedReports (c : Channel) (ch : Fin 8) (now : Nat) (h : Handle) (all : Prop) [Decidable all] : List Report :=
  match c.running with
  | some r =>
    if all ∧ r.inst.handle = h ∧ r.inst.doneReports = true then
      [.done { handle := h, tag := r.inst.tag, channel := some ch, reason := .withdrawn, start := some r.start,
               ending := now, pulses := r.pulses, followOn := .none }]
    else []
  | none => []

/-- The DONE reports of the waiting ones withdrawn, oldest first (R124, R125). -/
def droppedReports (c : Channel) (ch : Fin 8) (now : Nat) (h : Handle) : List Report :=
  (c.queue.filter fun i => i.handle = h ∧ i.doneReports = true).map fun i =>
    .done { handle := h, tag := i.tag, channel := some ch, reason := .withdrawn, start := none, ending := now, pulses := 0,
            followOn := .none }

/-- The reports of a withdrawal, written out. -/
theorem withdraw_dones_reports (c : Channel) (ch : Fin 8) (now : Nat) (h : Handle) (all : Prop) [Decidable all] :
    (c.withdraw ch now h (decide all)).dones.map Report.done = stoppedReports c ch now h all ++ droppedReports c ch now h := by
  rw [Channel.withdraw_dones, List.map_append]
  congr 1
  · unfold stoppedReports Channel.abortReports Channel.runs Channel.runningHandle
    cases running : c.running with
    | none => simp
    | some r =>
      by_cases own : all ∧ r.inst.handle = h
      · obtain ⟨al, rfl⟩ := own
        by_cases on : r.inst.doneReports = true <;> simp [al, on, FireInst.done, FollowOutcome.failed]
      · have other : ¬ (all ∧ r.inst.handle = h ∧ r.inst.doneReports = true) := fun ⟨al, handle, _⟩ => own ⟨al, handle⟩
        rw [if_neg (by simpa using own)]
        dsimp only
        rw [if_neg other]
        rfl
  · rw [discardReports_eq, List.filter_filter, List.map_map, droppedReports]
    have same : (c.queue.filter fun i => i.doneReports && i.handle == h) =
        c.queue.filter fun i => decide (i.handle = h ∧ i.doneReports = true) :=
      List.filter_congr fun i _ => Bool.eq_iff_iff.mpr (by simp [and_comm])
    rw [same]
    refine List.map_congr_left fun i mem => ?_
    obtain ⟨handle, -⟩ := of_decide_eq_true (List.mem_filter.mp mem).2
    simp [handle]

/-- An answer behind the event's own reports: the completion is accepted at one of the places they leave open, the command
unit is IDLE, and the event's starts are made (R160, R167, R180, R184). -/
theorem finish_concluded (s u : State) (c : InHand) (status : Status) (fieldNo : Option Nat) (results : Results) :
    finish s.queued c { state := u, reply := .now status fieldNo results, ended := [] } =
      s.concluded (acceptCompletion s.queued u (c.completion status fieldNo results)).freeUnit := by
  rw [State.concluded, ← fetchIfReady_eq, ← writeOnAcceptance_eq]
  rfl

/-- The place of an accepted completion among the records of its event. -/
theorem acceptCompletion_records (base : Nat) (s : State) (c : Completion) :
    ∃ n, (acceptCompletion base s c).reports.records = s.reports.records.take base ++
      ((s.reports.records.drop base).take n ++ .completion c :: (s.reports.records.drop base).drop n) := ⟨_, rfl⟩

theorem mem_acceptCompletion (base : Nat) (s : State) (c : Completion) :
    .completion c ∈ (acceptCompletion base s c).reports.records := by
  obtain ⟨n, place⟩ := acceptCompletion_records base s c
  rw [place]
  simp

/-- The part of a DISARM on the channel: the withdrawal, with its reports offered. -/
def State.withdrawn (s : State) (out : Output) (h : Handle) (all : Bool) : State :=
  let w := (s.chan out.channel).withdraw out.channel s.mono h all
  offerDones (s.setChan out.channel w.channel) w.dones

theorem withdrawFrom_output (s : State) (h : Handle) (out : Output) (all : Bool) :
    withdrawFrom s h (some out) (if all then .all else .queued) =
      (s.withdrawn out h all, (s.chan out.channel).queue.countP (fun i => i.handle == h),
        if (all && (s.chan out.channel).runs h) = true then 1 else 0) := by
  rw [← Channel.withdraw_waiting _ out.channel s.mono h all, ← Channel.withdraw_running _ out.channel s.mono h all]
  cases all <;> rfl

@[simp] theorem State.idle_chan (s : State) (i : SlotId) (h : Held) (k : Fin 8) : (s.idle i h).chan k = s.chan k := rfl

theorem withdrawn_offersFrom (s : State) (out : Output) (h : Handle) (all : Bool) :
    (s.setChan out.channel ((s.chan out.channel).withdraw out.channel s.mono h all).channel).OffersFrom
      (s.withdrawn out h all) := offerDones_offersFrom _ _

/-- A withdrawal reads and writes its channel and the report queue, whatever the slots and collections. -/
theorem withdrawn_sameOutside {s t : State} {i : SlotId} {x : Held} {out : Output} {h : Handle} {all : Bool}
    {completion : Completion}
    (e : t = (acceptCompletion s.queued ((s.idle i x).withdrawn out h all) completion).freeUnit) :
    s.sameOutsideSlotAndChannels t i := by
  have told := withdrawn_offersFrom (s.idle i x) out h all
  have irq : t.irq = s.irq ∨ t.irq = s.irq.setLoss := by rw [e]; exact told.irq
  subst e
  refine ⟨fun j ne => ?_, told.caps, told.time, told.wall, told.port, told.pending, told.write, ?_, ?_⟩
  · exact (State.slot_congr told.slots j).trans (State.slot_setHeld_of_ne _ _ ne)
  · exact told.sched.trans (s.sched.without_eq i)
  · rcases irq with q | q <;> rw [q] <;> exact ⟨rfl, rfl, rfl, rfl, rfl, rfl, rfl⟩

/-- DISARM with a channel and option QUEUED or ALL: the slot is IDLE, the channel has the withdrawal, and the answer stands
among its reports (R16). -/
theorem exec_disarm_withdraws {s : State} {c : InHand} {x : Held} {out : Output} (hold : s.holds c 0x03)
    (live : s.live (handleAt c.record 4) = some x) (output : x.action.output = some out)
    (option : byteAt c.record 6 = 1 ∨ byteAt c.record 6 = 2) :
    exec .disarm s = .next (s.concluded (acceptCompletion s.queued
      ((s.idle (handleAt c.record 4).slot x).withdrawn out (handleAt c.record 4) (decide (byteAt c.record 6 = 2)))
      (c.completion .ok none (.disarmed (handleAt c.record 4) x.state
        ((s.chan out.channel).queue.countP fun i => i.handle == handleAt c.record 4)
        (if (s.chan out.channel).runningHandle = some (handleAt c.record 4) ∧ byteAt c.record 6 = 2 then 1 else 0)))).freeUnit) := by
  have valid : withdrawOf c.record = .ok (if decide (byteAt c.record 6 = 2) = true then .all else .queued) := by
    rcases option with e | e <;> simp [withdrawOf, e]
  have runs : (decide (byteAt c.record 6 = 2) && (s.chan out.channel).runs (handleAt c.record 4)) = true ↔
      (s.chan out.channel).runningHandle = some (handleAt c.record 4) ∧ byteAt c.record 6 = 2 := by
    simp [Channel.runs, and_comm]
  show (.next (carryOut 0x03 s disarmOwner) : Next) = _
  rw [carryOut_holds 0x03 s c disarmOwner hold]
  simp only [disarmOwner, live, valid, output, withdrawFrom_output]
  rw [show s.reports.records.length = s.queued from rfl]
  simp only [okWith, finish_concluded, State.idle_chan, runs]

theorem filter_handle_eq (h : Handle) (is : List FireInst) :
    (is.filter fun i => i.handle != h) = is.filter fun i => decide (i.handle ≠ h) :=
  List.filter_congr fun i _ => Bool.eq_iff_iff.mpr (by simp)

/-- What starts where a running one is withdrawn is the front of those kept, at that instant (R124). -/
theorem Channel.startNext_cons {c d : Channel} {now : Nat} {i : FireInst} {rest : List FireInst}
    (queue : c.queue = i :: rest) (next : d = c.startNext now) :
    d.queue = rest ∧ ∃ r, d.running = some r ∧ r.inst = i ∧ r.start = now := by
  subst next
  simp only [Channel.startNext, queue, Channel.start]
  split
  · exact ⟨rfl, _, rfl, rfl, rfl⟩
  · exact ⟨rfl, _, rfl, rfl, rfl⟩

/-- The report queue after a withdrawal that finds room, the answer standing among the reports (R180). -/
theorem withdrawn_records {s : State} {i : SlotId} {x : Held} {out : Output} {h : Handle} {all : Prop} [Decidable all]
    (completion : Completion) (running : s.port.state = .running) (lost : s.reports.lost = 0)
    (room : s.reports.records.length + s.reports.reservations +
      (stoppedReports (s.chan out.channel) out.channel s.time.mono h all ++
        droppedReports (s.chan out.channel) out.channel s.time.mono h).length ≤ 32) :
    ∃ n, (acceptCompletion s.queued ((s.idle i x).withdrawn out h (decide all)) completion).reports.records =
      s.reports.records ++
        (stoppedReports (s.chan out.channel) out.channel s.time.mono h all ++
          droppedReports (s.chan out.channel) out.channel s.time.mono h).take n ++
        .completion completion ::
          (stoppedReports (s.chan out.channel) out.channel s.time.mono h all ++
            droppedReports (s.chan out.channel) out.channel s.time.mono h).drop n := by
  have records : ((s.idle i x).withdrawn out h (decide all)).reports.records = s.reports.records ++
      (stoppedReports (s.chan out.channel) out.channel s.time.mono h all ++
        droppedReports (s.chan out.channel) out.channel s.time.mono h) := by
    rw [← withdraw_dones_reports] at room ⊢
    exact offerAll_room _ _ running lost room
  obtain ⟨n, place⟩ := acceptCompletion_records s.queued ((s.idle i x).withdrawn out h (decide all)) completion
  refine ⟨n, ?_⟩
  rw [place, records, State.queued, List.take_left' rfl, List.drop_left' rfl, List.append_assoc]

/-- Settles O20: the channel's withdrawal, its reports and the answer among them. -/
theorem disarmWithdrawsInstances : Obligations.DisarmWithdrawsInstances := by
  rintro s c _ x out hold rfl gen held output option
  have told := withdrawn_offersFrom (s.idle (handleAt c.record 4).slot x) out (handleAt c.record 4)
    (decide (byteAt c.record 6 = 2))
  have chan := (State.chan_congr told.chans out.channel).trans (State.chan_setChan_self _ _ _)
  rw [Channel.withdraw_channel, filter_handle_eq, State.idle_chan] at chan
  have all : (decide (byteAt c.record 6 = 2) && (s.chan out.channel).runs (handleAt c.record 4)) = true ↔
      byteAt c.record 6 = 2 ∧ ∃ r, (s.chan out.channel).running = some r ∧ r.inst.handle = handleAt c.record 4 := by
    simp [Channel.runs_iff]
  refine ⟨_, exec_disarm_withdraws hold (State.live_eq_some.mpr ⟨gen, held⟩) output option, withdrawn_sameOutside rfl, ?_,
    fun k ne => ?_, fun stays => ?_, fun runs empty => ?_, fun runs i rest kept => ?_, ?_, ?_, ?_, fun running lost room => ?_⟩
  · refine (State.slot_congr told.slots _).trans ?_
    rw [← gen]
    exact State.slot_setHeld_self _ _ _
  · exact (State.chan_congr told.chans k).trans (State.chan_setChan_of_ne _ _ ne)
  · exact chan.trans (if_neg (mt all.mp stays))
  · refine (chan.trans (if_pos (all.mpr runs))).trans ?_
    simp only [Channel.startNext, empty]
  · exact Channel.startNext_cons kept (chan.trans (if_pos (all.mpr runs)))
  · exact mem_acceptCompletion _ _ _
  · exact congrArg (· - 1) told.reservations
  · exact congrArg (fun u : CmdUnit => { u with state := .idle }) told.cmd
  · exact withdrawn_records _ running lost room

end Sys2Proof.Machine
end

section
/-! SUPPORT. EXPIRY (Chapter 2): which occurrence it takes, judged after the slew step and the second boundary of its instant,
and what the taking of a due list's entry does. -/

namespace Sys2Proof.Machine

/-! ### What a firing or a skip does -/

theorem Action.fires_iff {a : Action} {late : Nat} :
    a.fires late = true ↔ late ≤ a.lateLimit ∨ a.latePolicy = .fireLate := by simp [Action.fires]

/-- The frame of an offer that depends on the report flags. -/
theorem offerIf_dueOf (on : Bool) (s : State) (r : Report) (h : r.isCompletion = false) :
    (offerIf on s r).dueOf = s.dueOf := by
  funext i
  simp [State.dueOf, State.slot_congr (offerIf_offersFrom on s r h).slots]

/-- A completed event-only firing offers its DONE report when its done reports are on or its request failed (R43, R125). -/
theorem completeEventOnly_eq {s asked : State} {i : FireInst} {outcome : FollowOutcome}
    (follow : s.followOf i s.time.mono = (asked, outcome)) : completeEventOnly s i =
      if i.doneReports = true ∨ outcome = .stale ∨ outcome = .notIdle ∨ outcome = .notAfter then
        offer asked (.done { handle := i.handle, tag := i.tag, channel := none, reason := .completed,
                             start := some s.time.mono, ending := s.time.mono, pulses := 0, followOn := outcome })
      else asked := by
  have failed : (i.doneReports || outcome.failed) = true ↔
      i.doneReports = true ∨ outcome = .stale ∨ outcome = .notIdle ∨ outcome = .notAfter := by
    cases outcome <;> simp [FollowOutcome.failed]
  rw [completeEventOnly, State.mono, follow]
  dsimp only
  rw [offerDones_done]
  simp only [failed]

/-- A firing without a channel: NO_CHANNEL is reported, and the completion follows with its request (R42, R43). -/
theorem fireOrSkip_eventOnly {moved told asked : State} {a : Action} {o : Occurrence} {late : Nat} {outcome : FollowOutcome}
    (fired : a.fires late = true) (output : a.output = none)
    (reported : offerIf a.fireReports moved (.fire o (a.late late) .noChannel) = told)
    (follow : told.followOf (fireInst a o.handle moved.mono late) told.time.mono = (asked, outcome)) :
    fireOrSkip moved a o late =
      if a.doneReports = true ∨ outcome = .stale ∨ outcome = .notIdle ∨ outcome = .notAfter then
        offer asked (.done { handle := o.handle, tag := a.tag, channel := none, reason := .completed,
                             start := some told.time.mono, ending := told.time.mono, pulses := 0, followOn := outcome })
      else asked := by
  rw [fireOrSkip, if_pos fired, fireOccurrence]
  simp only [output, reported]
  exact completeEventOnly_eq follow

/-- A firing with a channel: the arrival's DONE reports precede the FIRE report (R114). -/
theorem fireOrSkip_output {moved : State} {a : Action} {o : Occurrence} {late : Nat} {out : Output}
    (fired : a.fires late = true) (output : a.output = some out) :
    fireOrSkip moved a o late =
      offerIf a.fireReports
        (offerDones (moved.setChan out.channel
          ((moved.chan out.channel).arrive out.channel moved.mono (fireInst a o.handle moved.mono late)).channel)
          ((moved.chan out.channel).arrive out.channel moved.mono (fireInst a o.handle moved.mono late)).dones)
        (.fire o (a.late late)
          ((moved.chan out.channel).arrive out.channel moved.mono (fireInst a o.handle moved.mono late)).outcome) := by
  rw [fireOrSkip, if_pos fired, fireOccurrence]
  simp only [output]

/-- An EXPIRY whose taking fires or skips an occurrence does as the statements say, where the moving of the slot has left the
clocks and the channels alone (R37, R42 to R45). -/
theorem expiryTakes_of_fireOrSkip {s moved : State} {a : Action} {o : Occurrence} {late : Nat}
    (expiry : exec .expiry s = .next (s.writeStarted (fireOrSkip moved a o late))) (time : moved.time = s.time)
    (chans : moved.chans = s.chans) : s.expiryTakes moved a o late := by
  have answers : ∀ {t}, fireOrSkip moved a o late = t → exec .expiry s = .next (s.writeStarted t) :=
    fun e => e ▸ expiry
  have mono : moved.mono = s.time.mono := congrArg Timebase.mono time
  refine ⟨fun skipped => answers ?_, fun out fired output => answers ?_, fun fired output => ?_⟩
  · rw [fireOrSkip, if_neg (mt Action.fires_iff.mp skipped)]
    rfl
  · rw [fireOrSkip_output (Action.fires_iff.mpr fired) output, State.chan_congr chans, mono, fireInst, output]
    rfl
  · obtain ⟨told, reported⟩ : ∃ told, offerIf a.fireReports moved (.fire o (a.late late) .noChannel) = told := ⟨_, rfl⟩
    have frame := offerIf_offersFrom a.fireReports moved (.fire o (a.late late) .noChannel) rfl
    have due := offerIf_dueOf a.fireReports moved (.fire o (a.late late) .noChannel) rfl
    rw [reported] at frame due
    have slot : ∀ j, told.slot j = moved.slot j := State.slot_congr frame.slots
    have now : told.time.mono = s.time.mono := by rw [frame.time, time]
    have only := fun {asked outcome} => fireOrSkip_eventOnly (asked := asked) (outcome := outcome)
      (Action.fires_iff.mpr fired) output reported
    rw [now] at only
    simp only [offerIf, Action.late] at reported
    dsimp only
    rw [reported]
    refine ⟨fun followOn => answers (only (followOf_none followOn _)), fun target followOn => ⟨fun dead => ?_, fun g held gen =>
      ⟨fun busy => ?_, fun idle other => ?_, fun delay idle after => ?_⟩⟩⟩
    all_goals
      refine answers (only ((followOf_some followOn _).trans ?_))
    · exact follow_stale (by rwa [slot])
    · exact follow_notIdle (by rw [slot]; exact held) (by rw [slot]; exact gen) busy
    · exact follow_notAfter (by rw [slot]; exact held) (by rw [slot]; exact gen) idle other
    · have armed := follow_armed (completion := s.time.mono) (by rw [slot]; exact held) (by rw [slot]; exact gen) idle after
      rwa [State.joined, due] at armed

/-! ### What EXPIRY judges by -/

section
variable (s : State)

theorem withStep_slots : s.withStep.slots = s.slots := by
  rcases withStep_cases s with e | ⟨w, -, -, e⟩ <;> rw [e]; rfl

theorem withStep_sched : s.withStep.sched = s.sched := by
  rcases withStep_cases s with e | ⟨w, -, -, e⟩ <;> rw [e]; rfl

theorem withStep_time : s.withStep.time = s.time := by
  rcases withStep_cases s with e | ⟨w, -, -, e⟩ <;> rw [e]; rfl

theorem withStep_wallState : s.withStep.wall.state = s.wall.state := by
  rcases withStep_cases s with e | ⟨w, -, -, e⟩ <;> rw [e]; rfl

theorem withStep_lastSecond : s.withStep.wall.lastSecond = s.wall.lastSecond := by
  rcases withStep_cases s with e | ⟨w, -, -, e⟩ <;> rw [e]; rfl

/-- The offset that EXPIRY judges by is the one after the slew step (R50). -/
theorem withStep_offset : s.withStep.wall.offset = s.offsetThen := by
  unfold State.withStep State.offsetThen
  cases s.wall.slew with
  | none => rfl
  | some w =>
    show (if s.stepDue then s.stepped w else s).wall.offset =
      if s.stepDue then s.wall.offset + w.remainder.sign else s.wall.offset
    exact apply_ite (fun t : State => t.wall.offset) (s.stepDue = true) (s.stepped w) s

theorem withStep_wallNow : s.withStep.wallNow = s.wallThen := by
  rw [State.wallNow, withStep_time, withStep_offset]; rfl

variable {s}

/-- A slew step that is due is one of the slew in flight, at this instant (R78). -/
theorem stepDue_slew (due : s.stepDue = true) : ∃ w, s.wall.slew = some w ∧ w.nextStep = s.mono := by
  have here : s.stepHere.isSome = true := (Bool.and_eq_true_iff.mp due).1
  unfold State.stepHere at here
  split at here
  · cases here
  · obtain ⟨w, h⟩ := Option.isSome_iff_exists.mp here
    obtain ⟨slew, at'⟩ := Option.filter_eq_some_iff.mp h
    exact ⟨w, slew, beq_iff_eq.mp at'⟩

/-- The next step of a slew lies 1,024 fine units on (R78). -/
theorem stepped_stepDue {w : Slew} (here : w.nextStep = s.mono) : (s.stepped w).stepDue = false := by
  have later : (w.step.nextStep == (s.stepped w).mono) = false := by
    show (w.nextStep + Config.stepFU == s.mono) = false
    simp [here]
  have gone : (s.stepped w).stepHere = none := by
    unfold State.stepHere
    split
    · rfl
    · exact Option.filter_eq_none_iff.mpr fun x hx => by cases hx; exact ne_true_of_eq_false later
  simp [State.stepDue, gone]

/-- Once the slew step of an instant is taken, none is due at it (R78). -/
theorem withStep_stepDue (s : State) : s.withStep.stepDue = false := by
  by_cases due : s.stepDue = true
  · obtain ⟨w, slew, here⟩ := stepDue_slew due
    have taken : s.withStep = s.stepped w := by simp [State.withStep, slew, due]
    rw [taken, stepped_stepDue here]
  · rw [withStep_of_none s (Bool.eq_false_iff.mpr due)]
    exact Bool.eq_false_iff.mpr due

end

/-! ### The state foreseen -/

section
variable (s : State)

/-- The second boundary adds to what has been found, and to nothing else (R98). -/
theorem withBoundary_eq : ∃ found, s.withBoundary = s.setSched { s.sched with found := found } ∧
    ∀ m ∈ found, m ∈ s.sched.found ∨ s.boundaryDue = true ∧ m ∈ s.evaluate (wholeSecond s.wallNow) := by
  rcases withBoundary_cases s with e | ⟨due, e⟩
  · exact ⟨s.sched.found, e, fun m hm => .inl hm⟩
  · refine ⟨_, e, fun m hm => ?_⟩
    exact (List.mem_append.mp hm).imp_right fun h => ⟨due, h⟩

/-- A found match of an evaluation is late by what wall time is past its second (R98, R102). -/
theorem evaluate_lateness {second : Nat} {m : Match} (h : m ∈ s.evaluate second) :
    m.lateness = s.wallNow - second * Config.secondFU := by
  obtain ⟨i, -, rfl⟩ := List.mem_map.mp h
  rfl

/-- What EXPIRY foresees: the offset after the slew step, the matches of the second boundary, and all else as it stands. -/
structure State.Foresees (s f : State) : Prop where
  slot : ∀ j, f.slot j = s.slot j
  monoDue : f.sched.monoDue = s.sched.monoDue
  wallDue : f.sched.wallDue = s.sched.wallDue
  taken : f.sched.taken = s.sched.taken
  mono : f.mono = s.time.mono
  active : f.wall.active = s.wall.active
  offset : f.wall.offset = s.offsetThen
  wallNow : f.wallNow = s.wallThen
  settled : f.stepDue = false
  found : ∀ m ∈ f.sched.found, m ∈ s.sched.found ∨
    s.wall.state ≠ .unset ∧ s.wall.lastSecond < s.wallThen / 2 ^ 20 ∧ m.lateness = s.wallThen % 2 ^ 20

theorem foreseen_foresees : s.Foresees s.foreseen := by
  obtain ⟨found, e, origin⟩ := withBoundary_eq s.withStep
  have active : s.withStep.wall.active = s.wall.active := by rw [Wall.active, withStep_wallState]; rfl
  rw [State.foreseen, e]
  refine ⟨State.slot_congr (withStep_slots s), ?_, ?_, ?_, congrArg Timebase.mono (withStep_time s), active,
    withStep_offset s, withStep_wallNow s, withStep_stepDue s, fun m hm => ?_⟩
  · show s.withStep.sched.monoDue = _; rw [withStep_sched]
  · show s.withStep.sched.wallDue = _; rw [withStep_sched]
  · show s.withStep.sched.taken = _; rw [withStep_sched]
  · rcases origin m hm with old | ⟨due, new⟩
    · rw [withStep_sched] at old
      exact .inl old
    · have late := evaluate_lateness _ new
      simp only [State.boundaryDue, Bool.and_eq_true, decide_eq_true_eq, active, withStep_lastSecond, withStep_wallNow,
        wholeSecond] at due late
      obtain ⟨⟨⟨-, set⟩, -⟩, crossed⟩ := due
      refine .inr ⟨by simpa [Wall.active] using set, crossed, ?_⟩
      rw [late]
      simp only [Config.secondFU]
      omega

variable {s}

/-- With no slew step due, every instant up to wall now has been reached. -/
theorem wallNow_lt_expiryReach (settled : s.stepDue = false) : s.wallNow < s.expiryReach := by
  rw [State.expiryReach, settled, if_neg Bool.false_ne_true, State.wallReach]
  split <;> omega

theorem State.dueOf_eq {i : SlotId} {h : Held} {due : Due} (held : (s.slot i).held = some h)
    (pending : h.nextDue = some due) : s.dueOf i = due.instant := by simp [State.dueOf, held, pending]

/-- The first due entry of a list is the first that has had no occurrence, if it is due (R35, R36). -/
theorem find?_entryDue {reach : Nat} {clock : Clock} {i : SlotId} {front rest : List SlotId}
    (before : ∀ j ∈ front, j ∈ s.sched.taken) (due : s.entryDue reach clock i = true) :
    (front ++ i :: rest).find? (s.entryDue reach clock) = some i := by
  rw [List.find?_append, List.find?_eq_none.mpr, Option.none_or, List.find?_cons_of_pos due]
  intro j hj
  simp [State.entryDue, before j hj]

end

/-! ### The occurrence that comes first -/

/-- No match comes before an instant that is no later than any mono equivalent of those found (R35, R98). -/
theorem dueMatch_after {f : State} {at' : Int} (found : ∀ m ∈ f.sched.found, at' ≤ (f.mono : Int) - (m.lateness : Int)) :
    ∀ m, f.dueMatch = some m → at' ≤ (f.mono : Int) - (m.lateness : Int) :=
  fun m hm => found m (dueMatch_found hm).1

/-- A mono entry comes first where no wall entry that is due and no match comes before it (R35). -/
theorem nextTaking_mono {f : State} {reach : Nat} {i : SlotId} (mono : f.dueMono reach = some i)
    (wall : ∀ j, f.dueWall reach = some j → (f.dueOf i : Int) ≤ f.monoEquivalent (f.dueOf j))
    (found : ∀ m ∈ f.sched.found, (f.dueOf i : Int) ≤ (f.mono : Int) - (m.lateness : Int)) :
    f.nextTaking reach = some (.entry i) := by
  have after := dueMatch_after found
  simp only [State.nextTaking, mono]
  rcases w : f.dueWall reach with _ | j
  · rcases m : f.dueMatch with _ | m
    · rfl
    · simp [after _ m]
  · rcases m : f.dueMatch with _ | m
    · simp [wall j w]
    · simp [wall j w, after _ m]

/-- A wall entry comes first where every mono entry that is due comes after it, and no match comes before it (R35). -/
theorem nextTaking_wall {f : State} {reach : Nat} {i : SlotId} (wall : f.dueWall reach = some i)
    (mono : ∀ j, f.dueMono reach = some j → f.monoEquivalent (f.dueOf i) < (f.dueOf j : Int))
    (found : ∀ m ∈ f.sched.found, f.monoEquivalent (f.dueOf i) ≤ (f.mono : Int) - (m.lateness : Int)) :
    f.nextTaking reach = some (.entry i) := by
  have after := dueMatch_after found
  simp only [State.nextTaking, wall]
  rcases e : f.dueMono reach with _ | j
  · rcases m : f.dueMatch with _ | m
    · rfl
    · simp [after _ m]
  · rcases m : f.dueMatch with _ | m
    · simp [not_le.mpr (mono j e)]
    · simp [not_le.mpr (mono j e), after _ m]

/-- EXPIRY takes the entry that comes first of what it foresees, where that is reached as the wall stands (R35, R50). -/
theorem exec_expiry_entry {s : State} {i : SlotId} (running : s.sched.state = .running)
    (first : s.foreseen.nextTaking s.foreseen.expiryReach = some (.entry i))
    (reached : i ∈ s.sched.monoDue ∨ s.entryDue s.expiryReach .wall i = true) :
    exec .expiry s = .next (s.writeStarted (takeEntry s i)) := by
  show execExpiry s = _
  simp only [execExpiry, running, if_true, first, writeOnAcceptance_eq]
  rw [if_pos (by simpa using reached)]

/-! ### The taking of an entry, written out -/

/-- The occurrences that an entry taken `late` fine units late has missed (R38). -/
def Held.missedAt (h : Held) (late : Nat) : Nat :=
  match h.action.period, h.remaining with
  | none, _ => 0
  | some p, .unlimited => late / p
  | some p, .limited r => min (late / p) (r - 1)

/-- The remaining count after it (R39). -/
def Held.leftAt (h : Held) (late : Nat) : Remaining :=
  match h.remaining with
  | .unlimited => .unlimited
  | .limited r => .limited (r - (1 + h.missedAt late))

/-- The instant of the next due, or none where the run ends (R40, R41). -/
def Held.nextAt (h : Held) (due : Due) (late : Nat) : Option Nat :=
  match h.action.period with
  | none => none
  | some p =>
    if h.leftAt late = .limited 0 ∨ due.clock.lastInstant < due.instant + (h.missedAt late + 1) * p then none
    else some (due.instant + (h.missedAt late + 1) * p)

/-- What the slot holds once the occurrence is counted, its due gone (R37, R39). -/
def Held.countedAt (h : Held) (late : Nat) : Held :=
  { h with
    remaining := h.leftAt late
    fired := if late ≤ h.action.lateLimit ∨ h.action.latePolicy = .fireLate then min (2 ^ 32 - 1) (h.fired + 1) else h.fired
    nextDue := none }

/-- The slot moved on from its entry, `removed` being the scheduler without it: PENDING at its next due, or at the end of its
run WAITING again, FREE or IDLE (R22, R40, R41). -/
def State.entryMoved (s : State) (i : SlotId) (h : Held) (due : Due) (late : Nat) (removed : Sched) : State :=
  match h.nextAt due late with
  | some n =>
    ({ s with sched := match due.clock with
        | .mono => { removed with monoDue := s.joined i n removed.monoDue }
        | .wall => { removed with wallDue := s.joined i n removed.wallDue } } : State).withSlot i
      ⟨(s.slot i).gen, some { h.countedAt late with nextDue := some { due with instant := n } }⟩
  | none =>
    match h.action.trigger with
    | .onCapture k _ .everyEdge =>
      ({ s with sched := { removed with waits := removed.waits.set k.val (removed.waits[k.val] ++ [i]) } } : State).withSlot i
        ⟨(s.slot i).gen, some { h.countedAt late with state := .waiting }⟩
    | _ =>
      ({ s with sched := removed } : State).withSlot i
        (if h.action.autoRelease then ⟨(s.slot i).gen + 1, none⟩
          else ⟨(s.slot i).gen, some { h.countedAt late with state := .idle }⟩)

/-- The occurrence of the entry (R44). -/
def State.entryOccurrence (s : State) (i : SlotId) (h : Held) (due : Due) (late : Nat) : Occurrence :=
  { handle := ⟨i, (s.slot i).gen⟩, tag := h.action.tag, due := due, instant := s.time.mono, lateness := min (2 ^ 32 - 1) late,
    missed := min 65535 (h.missedAt late), remaining := h.leftAt late, last := (h.nextAt due late).isNone }

section
variable (h : Held) (due : Due) (now : Nat)

theorem missedCount_eq : missedCount h.action.period due.instant now h.remaining = h.missedAt (now - due.instant) := by
  unfold missedCount Held.missedAt
  cases h.action.period <;> cases h.remaining <;> rfl

theorem remaining_minus_eq (late : Nat) : h.remaining.minus (1 + h.missedAt late) = h.leftAt late := by
  unfold Held.leftAt
  cases h.remaining <;> rfl

theorem nextDueOf_eq (late : Nat) : nextDueOf h.action due (h.missedAt late) (h.leftAt late) =
    (h.nextAt due late).map fun n => { due with instant := n } := by
  unfold nextDueOf Held.nextAt
  cases h.action.period with
  | none => rfl
  | some p =>
    by_cases used : h.leftAt late = .limited 0
    · simp [used]
    · by_cases beyond : due.clock.lastInstant < due.instant + (h.missedAt late + 1) * p
      · simp [used, beyond]
      · simp [used, beyond, not_lt.mp beyond]

/-- A slot's contents with the occurrence counted, its due still there. -/
theorem counted_eq (late : Nat) :
    { h with remaining := h.leftAt late, fired := firedAfter (h.action.fires late) h.fired } =
      { h.countedAt late with nextDue := h.nextDue } := by
  simp only [Held.countedAt, firedAfter, Action.fires_iff, saturate, Config.max32]
  rfl

end

theorem endRun_everyEdge {u : State} {i : SlotId} {h : Held} {k : Fin 4} {delay : Nat} (out : u.uncollect i = u)
    (capture : h.action.trigger = .onCapture k delay .everyEdge) : u.endRun i h = u.await i h k := by
  simp [State.endRun, capture, out]

theorem endRun_other {u : State} {i : SlotId} {h : Held} (out : u.uncollect i = u)
    (other : ∀ k delay, h.action.trigger ≠ .onCapture k delay .everyEdge) : u.endRun i h =
      u.setSlot i (if h.action.autoRelease then ⟨(u.slot i).gen + 1, none⟩
        else ⟨(u.slot i).gen, some { h with state := .idle, nextDue := none }⟩) := by
  have retired : u.endRun i h = u.retire i h := by
    unfold State.endRun
    split
    · next k delay e => exact absurd e (other k delay)
    · rfl
  rw [retired]
  unfold State.retire State.freeSlot State.idle
  rw [out]
  split <;> rfl

/-- What the taking makes of the slot and the collections (R40, R41). -/
theorem entryMoved_eq {s : State} {i : SlotId} {h : Held} {due : Due} {late : Nat} {removed : Sched}
    (state : h.state = .pending) (out : (s.setSched removed).uncollect i = s.setSched removed) :
    (match nextDueOf h.action due (h.missedAt late) (h.leftAt late) with
      | some d => (s.setSched removed).pend i { h.countedAt late with nextDue := h.nextDue } d
      | none => (s.setSched removed).endRun i { h.countedAt late with nextDue := h.nextDue }) =
      s.entryMoved i h due late removed := by
  rw [nextDueOf_eq]
  unfold State.entryMoved
  cases h.nextAt due late with
  | some n =>
    have counted : (h.countedAt late).state = .pending := state
    obtain ⟨clock, instant⟩ := due
    cases clock with
    | mono => exact (State.pend_mono_eq _ i _ n).trans (by rw [← counted]; rfl)
    | wall => exact (State.pend_wall_eq _ i _ n).trans (by rw [← counted]; rfl)
  | none =>
    simp only [Option.map_none]
    split
    · next k delay capture => exact endRun_everyEdge out capture
    · next other => exact endRun_other out other

/-- The taking of an entry of a PENDING slot (R37 to R45). -/
theorem takeEntry_eq {s : State} {i : SlotId} {h : Held} {due : Due} {late : Nat} {removed : Sched}
    (held : (s.slot i).held = some h) (pending : h.nextDue = some due) (state : h.state = .pending)
    (out : (s.markTaken i).uncollect i = s.setSched removed) (lateness : s.now due.clock - due.instant = late) :
    takeEntry s i = fireOrSkip (s.entryMoved i h due late removed) h.action (s.entryOccurrence i h due late) late := by
  have lifted : (s.setSched removed).uncollect i = s.setSched removed := by rw [← out, State.uncollect_uncollect]
  have last : (nextDueOf h.action due (h.missedAt late) (h.leftAt late)).isNone = (h.nextAt due late).isNone := by
    rw [nextDueOf_eq]; cases h.nextAt due late <;> rfl
  rw [← entryMoved_eq state lifted, ← counted_eq]
  simp only [takeEntry, held, pending, missedCount_eq, lateness, remaining_minus_eq, last, out]
  rfl

/-! ### EXPIRY takes the entry that comes first -/

theorem filter_ne_of_notMem {i : SlotId} {l : List SlotId} (h : i ∉ l) : l.filter (· != i) = l :=
  List.filter_eq_self.mpr fun j hj => by simpa using fun e : j = i => h (e ▸ hj)

/-- A list without one of its members, which it holds once. -/
theorem filter_ne_middle {i : SlotId} {front rest : List SlotId} (once : (front ++ i :: rest).Nodup) :
    (front ++ i :: rest).filter (· != i) = front ++ rest := by
  obtain ⟨-, tail, apart⟩ := List.nodup_append.mp once
  have before : i ∉ front := fun h => apart i h i (by simp) rfl
  have behind : i ∉ rest := (List.nodup_cons.mp tail).1
  rw [List.filter_append, List.filter_cons_of_neg (by simp), filter_ne_of_notMem before, filter_ne_of_notMem behind]

section
variable {s : State} {i : SlotId} {h : Held} (sound : s.CollectionsSound) (held : (s.slot i).held = some h)
include sound held

theorem state_of_due {due : Due} (pending : h.nextDue = some due) : h.state = .pending :=
  (sound.held i h held).2.mpr (by simp [pending])

/-- A PENDING slot stands in neither the pattern set nor a wait set, and no match found is its own (R2, R98). -/
theorem without_of_pending (state : h.state = .pending) : s.sched.without i =
    { s.sched with monoDue := s.sched.monoDue.filter (· != i), wallDue := s.sched.wallDue.filter (· != i) } := by
  have own : ∀ x, (s.slot i).held = some x → x = h := fun x hx => Option.some.inj (hx.symm.trans held)
  have pattern : i ∉ s.sched.patterns := by
    rw [sound.patterns]
    rintro ⟨x, hx, watching⟩
    rw [own x hx, state] at watching
    cases watching
  have waits : (s.sched.waits.map fun w => w.filter (· != i)) = s.sched.waits := by
    refine Vector.ext fun k hk => ?_
    rw [Vector.getElem_map]
    refine filter_ne_of_notMem fun mem => ?_
    obtain ⟨x, d, r, hx, waiting, -⟩ := (sound.waits ⟨k, hk⟩ i).mp mem
    rw [own x hx, state] at waiting
    cases waiting
  have found : s.sched.found.filter (·.slot != i) = s.sched.found :=
    List.filter_eq_self.mpr fun m hm => by simpa using fun e : m.slot = i => pattern (e ▸ (sound.found m hm).1)
  simp only [Sched.without, filter_ne_of_notMem pattern, waits, found]

/-- A slot with a due on one clock stands in that clock's list alone (R26). -/
theorem notMem_other_list {clock : Clock} {n : Nat} (pending : h.nextDue = some { clock := clock, instant := n }) :
    (clock = .mono → i ∉ s.sched.wallDue) ∧ (clock = .wall → i ∉ s.sched.monoDue) := by
  have own : ∀ x, (s.slot i).held = some x → x = h := fun x hx => Option.some.inj (hx.symm.trans held)
  refine ⟨?_, ?_⟩
  · rintro rfl
    rw [sound.wall]
    rintro ⟨x, m, hx, -, due⟩
    rw [own x hx, pending] at due
    cases due
  · rintro rfl
    rw [sound.mono]
    rintro ⟨x, m, hx, -, due⟩
    rw [own x hx, pending] at due
    cases due

variable {n : Nat} {front rest : List SlotId}

/-- The scheduler without a mono entry that is taken (R36, R39). -/
theorem takenOut_mono (pending : h.nextDue = some { clock := .mono, instant := n }) (list : s.sched.monoDue = front ++ i :: rest) :
    (s.markTaken i).uncollect i =
      s.setSched { s.sched with monoDue := front ++ rest, taken := i :: s.sched.taken } := by
  have once := sound.lists.monoOnce
  rw [list] at once
  have other := (notMem_other_list sound held pending).1 rfl
  have out := without_of_pending sound held (state_of_due sound held pending)
  rw [list, filter_ne_middle once, filter_ne_of_notMem other] at out
  exact congrArg (fun q : Sched => s.setSched { q with taken := i :: s.sched.taken }) out

/-- The scheduler without a wall entry that is taken (R36, R39). -/
theorem takenOut_wall (pending : h.nextDue = some { clock := .wall, instant := n }) (list : s.sched.wallDue = front ++ i :: rest) :
    (s.markTaken i).uncollect i =
      s.setSched { s.sched with wallDue := front ++ rest, taken := i :: s.sched.taken } := by
  have once := sound.lists.wallOnce
  rw [list] at once
  have other := (notMem_other_list sound held pending).2 rfl
  have out := without_of_pending sound held (state_of_due sound held pending)
  rw [list, filter_ne_middle once, filter_ne_of_notMem other] at out
  exact congrArg (fun q : Sched => s.setSched { q with taken := i :: s.sched.taken }) out

end

/-- The matches that EXPIRY foresees come no earlier than an instant, if those found do not and, where a second boundary is
still to be taken, its matches do not (R98). -/
theorem foreseen_found {s : State} {at' : Int}
    (found : ∀ m ∈ s.sched.found, at' ≤ (s.time.mono : Int) - (m.lateness : Int))
    (boundary : s.wall.state = .unset ∨ s.wallThen / 2 ^ 20 ≤ s.wall.lastSecond ∨
      at' ≤ (s.time.mono : Int) - ((s.wallThen % 2 ^ 20 : Nat) : Int)) :
    ∀ m ∈ s.foreseen.sched.found, at' ≤ (s.foreseen.mono : Int) - (m.lateness : Int) := by
  intro m hm
  rw [(foreseen_foresees s).mono]
  rcases (foreseen_foresees s).found m hm with old | ⟨set, crossed, late⟩
  · exact found m old
  · rw [late]
    rcases boundary with unset | passed | first
    · exact absurd unset set
    · exact absurd passed (not_le.mpr crossed)
    · exact first

/-- A slew step moves wall now by at most one fine unit, so that what lay before it has still been reached (R50, R78). -/
theorem le_wallThen {s : State} {n : Nat} (due : n < s.wallNow ∨ n = s.wallNow ∧ s.stepDue = false) : n ≤ s.wallThen := by
  unfold State.wallThen State.offsetThen
  unfold State.wallNow at due
  split
  · next w _ =>
    have sign : -1 ≤ w.remainder.sign := by
      rcases Int.sign_trichotomy w.remainder with e | e | e <;> omega
    split
    · next step =>
      rcases due with past | ⟨-, settled⟩
      · omega
      · rw [step] at settled; cases settled
    · omega
  · omega

/-- An entry that is due is in its list, and has had no occurrence (R35, R36). -/
theorem find?_entryDue_mem {s : State} {reach : Nat} {clock : Clock} {l : List SlotId} {j : SlotId}
    (h : l.find? (s.entryDue reach clock) = some j) :
    j ∈ l ∧ j ∉ s.sched.taken ∧ (clock = .wall → s.wall.active = true) := by
  refine ⟨List.mem_of_find?_eq_some h, ?_⟩
  have due := List.find?_some h
  simp only [State.entryDue, Bool.and_eq_true, Bool.not_eq_true', List.contains_eq_mem, decide_eq_false_iff_not] at due
  refine ⟨due.1, ?_⟩
  rintro rfl
  exact (Bool.and_eq_true_iff.mp due.2).1

section
variable {s : State} {i : SlotId} {h : Held} {n : Nat} {front rest : List SlotId} (running : s.sched.state = .running)
  (held : (s.slot i).held = some h) (fresh : i ∉ s.sched.taken) (before : ∀ j ∈ front, j ∈ s.sched.taken)
include running held fresh before

/-- EXPIRY takes a mono entry that is due and that no wall entry and no match comes before (R29, R35). -/
theorem exec_expiry_mono (pending : h.nextDue = some { clock := .mono, instant := n })
    (list : s.sched.monoDue = front ++ i :: rest) (due : n ≤ s.time.mono)
    (wall : s.wall.state = .unset ∨ ∀ j ∈ s.sched.wallDue, j ∉ s.sched.taken → (n : Int) ≤ (s.dueOf j : Int) - s.offsetThen)
    (found : ∀ m ∈ s.sched.found, (n : Int) ≤ (s.time.mono : Int) - (m.lateness : Int))
    (boundary : s.wall.state = .unset ∨ s.wallThen / 2 ^ 20 ≤ s.wall.lastSecond ∨
      (n : Int) ≤ (s.time.mono : Int) - ((s.wallThen % 2 ^ 20 : Nat) : Int)) :
    exec .expiry s = .next (s.writeStarted (takeEntry s i)) := by
  have f := foreseen_foresees s
  have dueOf : ∀ j, s.foreseen.dueOf j = s.dueOf j := fun j => by simp [State.dueOf, f.slot]
  have own : s.foreseen.dueOf i = n := (dueOf i).trans (State.dueOf_eq held pending)
  refine exec_expiry_entry running (nextTaking_mono ?_ (fun j hj => ?_) ?_) (.inl (by simp [list]))
  · unfold State.dueMono
    rw [f.monoDue, list]
    refine find?_entryDue (by rwa [f.taken]) ?_
    simp [State.entryDue, f.taken, fresh, own, f.mono, due]
  · obtain ⟨mem, free, active⟩ := find?_entryDue_mem hj
    rw [f.wallDue] at mem
    rw [f.taken] at free
    rw [own, State.monoEquivalent, f.offset, dueOf]
    rcases wall with unset | later
    · have active := f.active ▸ active rfl
      simp [Wall.active, unset] at active
    · exact later j mem free
  · rw [own]
    exact foreseen_found found boundary

/-- EXPIRY takes a wall entry that is due and that comes before every mono entry and every match (R29, R35, R50). -/
theorem exec_expiry_wall (pending : h.nextDue = some { clock := .wall, instant := n })
    (list : s.sched.wallDue = front ++ i :: rest) (set : s.wall.state ≠ .unset)
    (due : n < s.wallNow ∨ n = s.wallNow ∧ s.stepDue = false)
    (mono : ∀ j ∈ s.sched.monoDue, j ∉ s.sched.taken → (n : Int) - s.offsetThen < (s.dueOf j : Int))
    (found : ∀ m ∈ s.sched.found, (n : Int) - s.offsetThen ≤ (s.time.mono : Int) - (m.lateness : Int))
    (boundary : s.wall.state = .unset ∨ s.wallThen / 2 ^ 20 ≤ s.wall.lastSecond ∨
      (n : Int) - s.offsetThen ≤ (s.time.mono : Int) - ((s.wallThen % 2 ^ 20 : Nat) : Int)) :
    exec .expiry s = .next (s.writeStarted (takeEntry s i)) := by
  have f := foreseen_foresees s
  have dueOf : ∀ j, s.foreseen.dueOf j = s.dueOf j := fun j => by simp [State.dueOf, f.slot]
  have now : s.dueOf i = n := State.dueOf_eq held pending
  have own : s.foreseen.monoEquivalent (s.foreseen.dueOf i) = (n : Int) - s.offsetThen := by
    rw [State.monoEquivalent, f.offset, dueOf, now]
  have active : s.wall.active = true := by simp [Wall.active, set]
  refine exec_expiry_entry running (nextTaking_wall ?_ (fun j hj => ?_) ?_) (.inr ?_)
  · have reached : n < s.foreseen.expiryReach := by
      have := wallNow_lt_expiryReach f.settled
      rw [f.wallNow] at this
      have := le_wallThen due
      omega
    unfold State.dueWall
    rw [f.wallDue, list]
    refine find?_entryDue (by rwa [f.taken]) ?_
    simp [State.entryDue, f.taken, fresh, f.active, active, dueOf, now, reached]
  · obtain ⟨mem, free, -⟩ := find?_entryDue_mem hj
    rw [f.monoDue] at mem
    rw [f.taken] at free
    rw [own, dueOf]
    exact mono j mem free
  · rw [own]
    exact foreseen_found found boundary
  · have reached : n < s.expiryReach := by
      rcases due with past | ⟨present, settled⟩
      · refine lt_of_lt_of_le past ?_
        unfold State.expiryReach State.wallReach
        repeat' split
        all_goals omega
      · rw [present]; exact wallNow_lt_expiryReach settled
    simp [State.entryDue, fresh, active, now, reached]

end

/-- Settles O25: the entry comes first of what EXPIRY foresees, and its taking is written out. -/
theorem expiryTakesTheDueEntry : Obligations.ExpiryTakesTheDueEntry := by
  rintro s i h ⟨clock, n⟩ front rest running sound held pending fresh before place equivalent found boundary
  have state := state_of_due sound held pending
  have moves : ∀ late removed, (s.entryMoved i h ⟨clock, n⟩ late removed).time = s.time ∧
      (s.entryMoved i h ⟨clock, n⟩ late removed).chans = s.chans := by
    intro late removed
    unfold State.entryMoved
    repeat' split
    all_goals exact ⟨rfl, rfl⟩
  rcases place with ⟨mono, list, due, first⟩ | ⟨wall, list, set, due, first⟩
  · obtain rfl : clock = .mono := mono
    have expiry := exec_expiry_mono running held fresh before pending list due first found boundary
    rw [takeEntry_eq held pending state (takenOut_mono sound held pending list) rfl] at expiry
    exact expiryTakes_of_fireOrSkip expiry (moves _ _).1 (moves _ _).2
  · obtain rfl : clock = .wall := wall
    have expiry := exec_expiry_wall running held fresh before pending list set due first found boundary
    rw [takeEntry_eq held pending state (takenOut_wall sound held pending list) rfl] at expiry
    exact expiryTakes_of_fireOrSkip expiry (moves _ _).1 (moves _ _).2

end Sys2Proof.Machine
end

section
/-! SUPPORT. The taking of every due occurrence, one after the other (R35, R36): what one taking does to the slots and the
collections, and what any number of them, until none is due, leaves. -/

namespace Sys2Proof.Machine

/-! ### What comes next -/

/-- The slot of an occurrence. -/
def Taking.slot : Taking → SlotId
  | .entry i => i
  | .found m => m.slot

/-- The occurrence that comes next is the first due entry of a list, or the first pattern occurrence (R35). -/
theorem nextTaking_some {s : State} {reach : Nat} {k : Taking} (next : s.nextTaking reach = some k) :
    (∃ i, k = .entry i ∧ (s.dueMono reach = some i ∨ s.dueWall reach = some i)) ∨
      ∃ m, k = .found m ∧ s.dueMatch = some m := by
  unfold State.nextTaking at next
  rcases mono : s.dueMono reach with _ | i <;> rcases wall : s.dueWall reach with _ | j <;>
    rcases found : s.dueMatch with _ | m <;> simp only [mono, wall, found] at next <;> grind

/-- Nothing comes next where neither list has a due entry and no pattern occurrence waits (R35). -/
theorem nextTaking_eq_none {s : State} {reach : Nat} :
    s.nextTaking reach = none ↔ s.dueMono reach = none ∧ s.dueWall reach = none ∧ s.dueMatch = none := by
  unfold State.nextTaking
  rcases mono : s.dueMono reach with _ | i <;> rcases wall : s.dueWall reach with _ | j <;>
    rcases found : s.dueMatch with _ | m <;> grind

/-- An entry of the mono due list, whatever wall time has reached, is due from its instant on (R35). -/
theorem entryDue_mono {s : State} {reach : Nat} {i : SlotId} :
    s.entryDue reach .mono i = true ↔ i ∉ s.sched.taken ∧ s.dueOf i ≤ s.time.mono := by
  simp only [State.entryDue, Bool.and_eq_true, Bool.not_eq_true', List.contains_eq_mem, decide_eq_false_iff_not,
    decide_eq_true_eq]
  rfl

theorem entryDue_wall {s : State} {reach : Nat} {i : SlotId} :
    s.entryDue reach .wall i = true ↔ i ∉ s.sched.taken ∧ s.wall.state ≠ .unset ∧ s.dueOf i < reach := by
  simp [State.entryDue, Wall.active]

/-- What comes next has had no occurrence at this instant; an entry is of a PENDING slot, a match one of those found (R36,
R105). -/
structure State.Comes (s : State) (k : Taking) : Prop where
  fresh : k.slot ∉ s.sched.taken
  entry : ∀ i, k = .entry i → ∃ h due, (s.slot i).held = some h ∧ h.state = .pending ∧ h.nextDue = some due
  found : ∀ m, k = .found m → m ∈ s.sched.found

theorem nextTaking_comes {s : State} {reach : Nat} {k : Taking} (sound : s.CollectionsSound)
    (next : s.nextTaking reach = some k) : s.Comes k := by
  rcases nextTaking_some next with ⟨i, rfl, mono | wall⟩ | ⟨m, rfl, found⟩
  · obtain ⟨mem, fresh, -⟩ := find?_entryDue_mem mono
    obtain ⟨h, n, held, state, due⟩ := (sound.mono i).mp mem
    exact ⟨fresh, fun _ e => by cases e; exact ⟨h, _, held, state, due⟩, fun _ e => by cases e⟩
  · obtain ⟨mem, fresh, -⟩ := find?_entryDue_mem wall
    obtain ⟨h, n, held, state, due⟩ := (sound.wall i).mp mem
    exact ⟨fresh, fun _ e => by cases e; exact ⟨h, _, held, state, due⟩, fun _ e => by cases e⟩
  · obtain ⟨mem, -, fresh⟩ := dueMatch_found found
    exact ⟨fresh, (fun _ e => by cases e), fun _ e => by cases e; exact mem⟩

/-! ### What a follow-on request of the event reaches -/

/-- What a follow-on request arms: an IDLE action with the trigger AFTER (R20). -/
def Slot.Requestable (x : Slot) : Prop :=
  ∃ h delay, x.held = some h ∧ h.state = .idle ∧ h.action.trigger = .after delay

/-- What is taken and found is as it was, and so is every slot that no follow-on request arms. -/
structure State.RequestsFrom (s t : State) : Prop where
  taken : t.sched.taken = s.sched.taken
  found : t.sched.found = s.sched.found
  slot : ∀ j, ¬ (s.slot j).Requestable → t.slot j = s.slot j

theorem State.RequestsFrom.refl (s : State) : s.RequestsFrom s := ⟨rfl, rfl, fun _ _ => rfl⟩

theorem State.RequestsFrom.trans {s t u : State} (h : s.RequestsFrom t) (k : t.RequestsFrom u) : s.RequestsFrom u where
  taken := k.taken.trans h.taken
  found := k.found.trans h.found
  slot := fun j no => (k.slot j (by rwa [h.slot j no])).trans (h.slot j no)

theorem State.OffersFrom.requestsFrom {s t : State} (h : s.OffersFrom t) : s.RequestsFrom t :=
  ⟨by rw [h.sched], by rw [h.sched], fun j _ => State.slot_congr h.slots j⟩

theorem pend_taken_found (s : State) (i : SlotId) (h : Held) (due : Due) :
    (s.pend i h due).sched.taken = s.sched.taken ∧ (s.pend i h due).sched.found = s.sched.found := by
  obtain ⟨clock, n⟩ := due
  cases clock <;> exact ⟨rfl, rfl⟩

theorem follow_requestsFrom (s : State) (target : Handle) (completion : Nat) :
    s.RequestsFrom (s.follow target completion).1 := by
  unfold State.follow
  split
  · exact .refl s
  · next h live =>
    split
    · exact .refl s
    · next idle =>
      split
      · next delay after =>
        have held := (State.live_eq_some.mp live).2
        simp only [State.armSlot, after]
        obtain ⟨taken, found⟩ := pend_taken_found s target.slot (.fresh h.action) ⟨.mono, completion + delay⟩
        refine ⟨taken, found, fun j no => State.slot_setHeld_of_ne _ _ ?_⟩
        rintro rfl
        exact no ⟨h, delay, held, not_not.mp idle, after⟩
      · exact .refl s

theorem completeEventOnly_requestsFrom (s : State) (i : FireInst) : s.RequestsFrom (completeEventOnly s i) := by
  have asked : s.RequestsFrom (s.followOf i s.mono).1 := by
    unfold State.followOf
    split
    · exact follow_requestsFrom _ _ _
    · exact .refl s
  exact asked.trans (offerDones_offersFrom _ _).requestsFrom

/-- A firing or a skip takes and finds nothing, and changes a slot only by its follow-on request (R37, R42, R43). -/
theorem fireOrSkip_requestsFrom (s : State) (a : Action) (o : Occurrence) (lateness : Nat) :
    s.RequestsFrom (fireOrSkip s a o lateness) := by
  unfold fireOrSkip fireOccurrence
  dsimp only
  split
  · split
    · next out _ =>
      have arrived : s.RequestsFrom (s.setChan out.channel
        ((s.chan out.channel).arrive out.channel s.mono (fireInst a o.handle s.mono lateness)).channel) :=
        ⟨rfl, rfl, fun _ _ => rfl⟩
      exact (arrived.trans (offerDones_offersFrom _ _).requestsFrom).trans (offerIf_offersFrom _ _ _ rfl).requestsFrom
    · exact (offerIf_offersFrom _ _ _ rfl).requestsFrom.trans (completeEventOnly_requestsFrom _ _)
  · exact (offerIf_offersFrom _ _ _ rfl).requestsFrom

/-- A slot whose pattern occurrence has been taken for a second, unless it has become FREE since (R102, R103). -/
def Slot.FiredFor (x : Slot) (second : Nat) : Prop :=
  ∀ h, x.held = some h → h.lastFired = some second ∧ h.action.trigger.isPattern = true

/-- No follow-on request arms an action whose trigger is a pattern (R20). -/
theorem Slot.FiredFor.not_requestable {x : Slot} {second : Nat} (fired : x.FiredFor second) : ¬ x.Requestable := by
  rintro ⟨h, delay, held, -, after⟩
  have pattern := (fired h held).2
  rw [after] at pattern
  cases pattern

/-! ### The taking of a pattern occurrence, written out -/

/-- What the slot holds once its pattern occurrence is counted (R37, R102, R103). -/
def Held.countedFor (h : Held) (m : Match) : Held :=
  { h with
    remaining := h.remaining.minus 1
    fired := if m.lateness ≤ h.action.lateLimit ∨ h.action.latePolicy = .fireLate then min (2 ^ 32 - 1) (h.fired + 1)
      else h.fired
    lastFired := some m.second }

/-- The slot moved on from its match, `removed` being the scheduler without that match: WATCHING still, or at the end of its
run FREE or IDLE (R22, R103). -/
def State.matchMoved (s : State) (m : Match) (h : Held) (removed : Sched) : State :=
  if h.remaining.minus 1 = .limited 0 then
    ({ s with sched := { removed with patterns := s.sched.patterns.filter (· ≠ m.slot) } } : State).withSlot m.slot
      (if h.action.autoRelease then ⟨(s.slot m.slot).gen + 1, none⟩
        else ⟨(s.slot m.slot).gen, some { h.countedFor m with state := .idle, nextDue := none }⟩)
  else ({ s with sched := removed } : State).withSlot m.slot ⟨(s.slot m.slot).gen, some (h.countedFor m)⟩

/-- The occurrence of the match (R44, R102). -/
def State.matchOccurrence (s : State) (m : Match) (h : Held) : Occurrence :=
  { handle := ⟨m.slot, (s.slot m.slot).gen⟩, tag := h.action.tag, due := ⟨.wall, m.second * 2 ^ 20⟩, instant := s.time.mono,
    lateness := min (2 ^ 32 - 1) m.lateness, missed := 0, remaining := h.remaining.minus 1,
    last := decide (h.remaining.minus 1 = .limited 0) }

/-- A member of the pattern set stands in no other collection (R2, R94). -/
theorem without_of_watching {s : State} {i : SlotId} (sound : s.CollectionsSound) (member : i ∈ s.sched.patterns) :
    s.sched.without i = { s.sched with patterns := s.sched.patterns.filter (· ≠ i),
                                       found := s.sched.found.filter (·.slot != i) } := by
  obtain ⟨h, held, watching⟩ := (sound.patterns i).mp member
  have own : ∀ x, (s.slot i).held = some x → x.state = .watching := fun x hx => by
    rw [held] at hx; cases hx; exact watching
  have mono : i ∉ s.sched.monoDue := fun mem => by
    obtain ⟨x, n, hx, pending, -⟩ := (sound.mono i).mp mem
    simp [own x hx] at pending
  have wall : i ∉ s.sched.wallDue := fun mem => by
    obtain ⟨x, n, hx, pending, -⟩ := (sound.wall i).mp mem
    simp [own x hx] at pending
  have waits : (s.sched.waits.map fun w => w.filter (· != i)) = s.sched.waits := by
    refine Vector.ext fun k hk => ?_
    rw [Vector.getElem_map]
    refine filter_ne_of_notMem fun mem => ?_
    obtain ⟨x, d, r, hx, waiting, -⟩ := (sound.waits ⟨k, hk⟩ i).mp mem
    simp [own x hx] at waiting
  simp only [Sched.without, filter_ne_of_notMem mono, filter_ne_of_notMem wall, waits]
  simp only [bne_fun_eq]

/-- The end of a run takes the slot out of its collection itself. -/
theorem endRun_uncollect (u : State) (i : SlotId) (h : Held) : (u.uncollect i).endRun i h = u.endRun i h := by
  simp only [State.endRun, State.retire, State.freeSlot, State.idle, State.uncollect_uncollect]
  rfl

/-- The taking of a pattern occurrence that has been found (R37, R102, R103). -/
theorem takeMatch_eq {s : State} {m : Match} {h : Held} (sound : s.CollectionsSound) (member : m.slot ∈ s.sched.patterns)
    (held : (s.slot m.slot).held = some h) : takeMatch s m =
      fireOrSkip (s.matchMoved m h { s.sched with found := s.sched.found.filter (·.slot != m.slot),
                                                  taken := m.slot :: s.sched.taken })
        h.action (s.matchOccurrence m h) m.lateness := by
  obtain ⟨x, hx, watching⟩ := (sound.patterns m.slot).mp member
  obtain rfl : h = x := Option.some.inj (held.symm.trans hx)
  have pattern := sound.watching m.slot h held watching
  have counted : { h with remaining := h.remaining.minus 1, fired := firedAfter (h.action.fires m.lateness) h.fired,
                          lastFired := some m.second } = h.countedFor m := by
    simp only [Held.countedFor, firedAfter, Action.fires_iff, saturate, Config.max32]
    rfl
  have out := without_of_watching sound member
  have notWaiting : ∀ k delay, (h.countedFor m).action.trigger ≠ .onCapture k delay .everyEdge := fun k delay e => by
    have e : h.action.trigger = .onCapture k delay .everyEdge := e
    rw [e] at pattern; cases pattern
  unfold takeMatch
  simp only [held, counted]
  congr 1
  unfold State.matchMoved
  by_cases ends : h.remaining.minus 1 = .limited 0
  · rw [if_pos ends, if_pos (by simp [ends]), ← endRun_uncollect, endRun_other (State.uncollect_uncollect _ _) notWaiting]
    have gone : ((s.markTaken m.slot).setSched { (s.markTaken m.slot).sched with
        found := s.sched.found.filter (·.slot != m.slot) }).uncollect m.slot =
        s.setSched { s.sched with
          patterns := s.sched.patterns.filter (· ≠ m.slot), found := s.sched.found.filter (·.slot != m.slot),
          taken := m.slot :: s.sched.taken } := by
      have twice : ((s.markTaken m.slot).setSched { (s.markTaken m.slot).sched with
          found := s.sched.found.filter (·.slot != m.slot) }).uncollect m.slot =
          s.setSched { s.sched.without m.slot with taken := m.slot :: s.sched.taken } := by
        simp [State.uncollect, State.setSched, State.markTaken, Sched.without, List.filter_filter]
      rw [twice, out]
    rw [gone]
    rfl
  · rw [if_neg ends, if_neg (by simp [ends])]
    rfl

/-! ### What one taking does -/

/-- What the taking of the occurrence `k` does to the scheduler: the slot has had its occurrence of this instant (R36), no
match of it is left, every other slot that no follow-on request arms is as it was, and a member that matched has the second of
its match as its last-fired one, unless it has become FREE (R102, R103). -/
structure State.Takes (s : State) (k : Taking) (t : State) : Prop where
  sound : t.CollectionsSound
  port : t.port = s.port
  cmd : t.cmd = s.cmd
  time : t.time = s.time
  wall : t.wall = s.wall
  caps : t.caps = s.caps
  state : t.sched.state = s.sched.state
  taken : t.sched.taken = k.slot :: s.sched.taken
  found : ∀ m, m ∈ t.sched.found ↔ m ∈ s.sched.found ∧ m.slot ≠ k.slot
  others : ∀ j, j ≠ k.slot → ¬ (s.slot j).Requestable → t.slot j = s.slot j
  fired : ∀ m, k = .found m → (t.slot m.slot).FiredFor m.second

/-- What the moving on of an entry's slot leaves as it was. -/
theorem entryMoved_frame (s : State) (i : SlotId) (h : Held) (due : Due) (late : Nat) (removed : Sched) :
    (s.entryMoved i h due late removed).sched.taken = removed.taken ∧
      (s.entryMoved i h due late removed).sched.found = removed.found ∧
      ∀ j, j ≠ i → (s.entryMoved i h due late removed).slot j = s.slot j := by
  unfold State.entryMoved
  repeat' split
  all_goals exact ⟨rfl, rfl, fun j ne => State.slot_setSlot_of_ne _ _ ne⟩

theorem matchMoved_frame (s : State) (m : Match) (h : Held) (removed : Sched) :
    (s.matchMoved m h removed).sched.taken = removed.taken ∧ (s.matchMoved m h removed).sched.found = removed.found ∧
      ∀ j, j ≠ m.slot → (s.matchMoved m h removed).slot j = s.slot j := by
  unfold State.matchMoved
  split
  all_goals exact ⟨rfl, rfl, fun j ne => State.slot_setSlot_of_ne _ _ ne⟩

theorem matchMoved_fired {s : State} {m : Match} {h : Held} {removed : Sched}
    (pattern : h.action.trigger.isPattern = true) :
    ((s.matchMoved m h removed).slot m.slot).FiredFor m.second := by
  intro x held
  unfold State.matchMoved at held
  split at held
  · rw [State.slot_withSlot_self] at held
    split at held
    · cases held
    · cases held; exact ⟨rfl, pattern⟩
  · rw [State.slot_withSlot_self] at held
    cases held; exact ⟨rfl, pattern⟩

/-- One taking does what Takes says. -/
theorem takeOne_takes {s : State} {k : Taking} (sound : s.CollectionsSound) (comes : s.Comes k) :
    s.Takes k (takeOne s k) := by
  have frame := takeOne_schedulesFrom s k
  have moved : ∃ u a o late, takeOne s k = fireOrSkip u a o late ∧ u.sched.taken = k.slot :: s.sched.taken ∧
      u.sched.found = s.sched.found.filter (·.slot != k.slot) ∧ (∀ j, j ≠ k.slot → u.slot j = s.slot j) ∧
      ∀ m, k = .found m → (u.slot m.slot).FiredFor m.second := by
    cases k with
    | entry i =>
      obtain ⟨h, due, held, state, pending⟩ := comes.entry i rfl
      have taking := takeEntry_eq (s := s) (removed := { s.sched.without i with taken := i :: s.sched.taken }) held pending
        state rfl rfl
      obtain ⟨taken, found, others⟩ := entryMoved_frame s i h due (s.now due.clock - due.instant)
        { s.sched.without i with taken := i :: s.sched.taken }
      exact ⟨_, _, _, _, taking, taken, found, others, fun m e => by cases e⟩
    | found m =>
      have member := (sound.found m (comes.found m rfl)).1
      obtain ⟨h, held, watching⟩ := (sound.patterns m.slot).mp member
      obtain ⟨taken, found, others⟩ := matchMoved_frame s m h
        { s.sched with found := s.sched.found.filter (·.slot != m.slot), taken := m.slot :: s.sched.taken }
      exact ⟨_, _, _, _, takeMatch_eq sound member held, taken, found, others, fun n e => by
        cases e; exact matchMoved_fired (sound.watching _ h held watching)⟩
  obtain ⟨u, a, o, late, taking, taken, found, others, fired⟩ := moved
  have requests := fireOrSkip_requestsFrom u a o late
  refine ⟨sound.moves (takeOne_moves s k), frame.port, frame.cmd, frame.time, frame.wall, frame.caps, frame.running, ?_, ?_, ?_,
    ?_⟩
  all_goals rw [taking]
  · rw [requests.taken, taken]
  · intro m
    rw [requests.found, found]
    simp
  · intro j ne no
    rw [requests.slot j (by rwa [others j ne]), others j ne]
  · intro m e
    rw [requests.slot _ (fired m e).not_requestable]
    exact fired m e

/-! ### What any number of takings do -/

/-- Any number of takings of what comes next, one after the other, over sound collections. -/
abbrev State.Takings : State → State → Prop :=
  Relation.ReflTransGen fun s t => ∃ k, s.CollectionsSound ∧ s.Comes k ∧ s.Takes k t

section
variable {s t : State} (takings : s.Takings t)
include takings

theorem takings_sound (sound : s.CollectionsSound) : t.CollectionsSound := by
  induction takings with
  | refl => exact sound
  | tail _ step _ => obtain ⟨k, -, -, takes⟩ := step; exact takes.sound

/-- What takings leave alone. -/
theorem takings_frame : t.port = s.port ∧ t.cmd = s.cmd ∧ t.time = s.time ∧ t.wall = s.wall ∧ t.caps = s.caps ∧
    t.sched.state = s.sched.state := by
  induction takings with
  | refl => exact ⟨rfl, rfl, rfl, rfl, rfl, rfl⟩
  | tail _ step ih =>
    obtain ⟨k, -, -, takes⟩ := step
    obtain ⟨port, cmd, time, wall, caps, state⟩ := ih
    exact ⟨takes.port.trans port, takes.cmd.trans cmd, takes.time.trans time, takes.wall.trans wall, takes.caps.trans caps,
      takes.state.trans state⟩

/-- A slot that has had its occurrence of the instant has had it for good (R36). -/
theorem takings_taken {i : SlotId} (taken : i ∈ s.sched.taken) : i ∈ t.sched.taken := by
  induction takings with
  | refl => exact taken
  | tail _ step ih =>
    obtain ⟨k, -, -, takes⟩ := step
    rw [takes.taken]
    exact List.mem_cons_of_mem _ ih

/-- A slot that is not IDLE stays as it is until its own occurrence is taken. -/
theorem takings_keep {i : SlotId} {h : Held} (held : (s.slot i).held = some h) (busy : h.state ≠ .idle) :
    i ∈ t.sched.taken ∨ t.slot i = s.slot i := by
  induction takings with
  | refl => exact .inr rfl
  | tail _ step ih =>
    obtain ⟨k, -, -, takes⟩ := step
    rw [takes.taken]
    by_cases own : i = k.slot
    · exact .inl (by simp [own])
    · refine ih.imp (List.mem_cons_of_mem _) fun same => ?_
      rw [takes.others i own, same]
      rintro ⟨x, delay, hx, idle, -⟩
      rw [same, held] at hx
      cases hx
      exact busy idle

/-- A match that has been found waits until its slot's occurrence is taken for its second (R98, R102, R103). -/
theorem takings_found {m : Match} (found : m ∈ s.sched.found) :
    m ∈ t.sched.found ∨ (t.slot m.slot).FiredFor m.second := by
  suffices m ∈ t.sched.found ∨ m.slot ∈ t.sched.taken ∧ (t.slot m.slot).FiredFor m.second from this.imp_right And.right
  induction takings with
  | refl => exact .inl found
  | @tail u v before step ih =>
    obtain ⟨k, usound, comes, takes⟩ := step
    rcases ih with waits | ⟨taken, fired⟩
    · by_cases own : m.slot = k.slot
      · cases k with
        | entry i =>
          obtain ⟨h, due, held, pending, -⟩ := comes.entry i rfl
          obtain ⟨x, hx, watching⟩ := (usound.patterns m.slot).mp (usound.found m waits).1
          rw [own, show (Taking.entry i).slot = i from rfl, held] at hx
          cases hx
          rw [pending] at watching
          cases watching
        | found n =>
          have same : n = m := List.inj_on_of_nodup_map usound.foundOnce (comes.found n rfl) waits own.symm
          subst same
          exact .inr ⟨by rw [takes.taken]; simp [Taking.slot], takes.fired n rfl⟩
      · exact .inl ((takes.found m).mpr ⟨waits, own⟩)
    · have other : m.slot ≠ k.slot := fun own => comes.fresh (own ▸ taken)
      refine .inr ⟨by rw [takes.taken]; exact List.mem_cons_of_mem _ taken, ?_⟩
      rwa [takes.others _ other fired.not_requestable]

/-- Where no match has been found, none is, and every member of the pattern set waits on as it is. -/
theorem takings_unfound (none : s.sched.found = []) : t.sched.found = [] ∧
    ∀ i h, (s.slot i).held = some h → h.state = .watching → i ∉ s.sched.taken → i ∉ t.sched.taken ∧ t.slot i = s.slot i := by
  induction takings with
  | refl => exact ⟨none, fun i h _ _ free => ⟨free, rfl⟩⟩
  | tail _ step ih =>
    obtain ⟨k, -, comes, takes⟩ := step
    obtain ⟨empty, members⟩ := ih
    refine ⟨List.eq_nil_iff_forall_not_mem.mpr fun m hm => ?_, fun i h held watching free => ?_⟩
    · have old := ((takes.found m).mp hm).1
      rw [empty] at old
      cases old
    · obtain ⟨free, same⟩ := members i h held watching free
      have other : i ≠ k.slot := by
        cases k with
        | entry j =>
          intro own
          obtain ⟨x, due, hx, pending, -⟩ := comes.entry j rfl
          rw [show j = i from own.symm, same, held] at hx
          cases hx
          rw [watching] at pending
          cases pending
        | found m =>
          have mem := comes.found m rfl
          rw [empty] at mem
          cases mem
      rw [takes.taken, List.mem_cons, not_or]
      refine ⟨⟨other, free⟩, ?_⟩
      rw [takes.others i other, same]
      rintro ⟨x, delay, hx, idle, -⟩
      rw [same, held] at hx
      cases hx
      rw [watching] at idle
      cases idle

end

/-! ### Until none is due -/

/-- Once every slot has had an occurrence, none is due (R36, R105). -/
theorem nextTaking_of_all_taken {s : State} {reach : Nat} (sound : s.CollectionsSound)
    (all : 256 ≤ s.sched.taken.toFinset.card) : s.nextTaking reach = none := by
  have full : s.sched.taken.toFinset = Finset.univ :=
    Finset.eq_univ_of_card _ (le_antisymm (Finset.card_le_univ _) (by simpa using all))
  refine Option.eq_none_iff_forall_not_mem.mpr fun k next => (nextTaking_comes sound next).fresh ?_
  have mem : k.slot ∈ s.sched.taken.toFinset := by simp [full]
  simpa using mem

/-- Each taking is of a slot that has had none. -/
theorem State.Takes.card {s t : State} {k : Taking} (takes : s.Takes k t) (comes : s.Comes k) :
    t.sched.taken.toFinset.card = s.sched.taken.toFinset.card + 1 := by
  rw [takes.taken, List.toFinset_cons, Finset.card_insert_of_notMem (by simpa using comes.fresh)]

/-- The wall instants reached at an instant do not change with the takings of it (R35). -/
theorem wallReach_congr {s t : State} (time : t.time = s.time) (wall : t.wall = s.wall) : t.wallReach = s.wallReach := by
  cases s
  cases t
  cases time
  cases wall
  rfl

/-- The taking of occurrences one at a time ends with none due, given as many steps as slots have had none (R35, R36). -/
theorem takeLoop_takings (fuel : Nat) {s : State} (sound : s.CollectionsSound)
    (enough : 256 ≤ fuel + s.sched.taken.toFinset.card) :
    s.Takings (takeLoop fuel s) ∧ (takeLoop fuel s).nextTaking s.wallReach = none := by
  induction fuel generalizing s with
  | zero => exact ⟨.refl, nextTaking_of_all_taken (s := s) sound (by omega)⟩
  | succ n ih =>
    rcases next : s.nextTaking s.wallReach with _ | k
    · rw [takeLoop, next]
      exact ⟨.refl, next⟩
    · have comes := nextTaking_comes sound next
      have takes := takeOne_takes sound comes
      obtain ⟨takings, settled⟩ := ih takes.sound (by rw [takes.card comes]; omega)
      rw [takeLoop, next]
      rw [wallReach_congr takes.time takes.wall] at settled
      exact ⟨.head ⟨k, sound, comes, takes⟩ takings, settled⟩

theorem takeAll_takings {s : State} (sound : s.CollectionsSound) : s.Takings (takeAll s) := by
  unfold takeAll
  split
  · exact (takeLoop_takings 256 sound (by omega)).1
  · exact .refl

/-- A RUNNING scheduler that takes all leaves none due (R35). -/
theorem takeAll_settled {s : State} (sound : s.CollectionsSound) (running : s.sched.state = .running) :
    (takeAll s).nextTaking s.wallReach = none := by
  rw [takeAll, if_pos running]
  exact (takeLoop_takings 256 sound (by omega)).2

section
variable {s : State} {reach : Nat} (settled : s.nextTaking reach = none)
include settled

/-- With none due, every mono entry whose instant has come has had its occurrence (R35, R36). -/
theorem mono_taken_of_settled {i : SlotId} (mem : i ∈ s.sched.monoDue) (due : s.dueOf i ≤ s.time.mono) :
    i ∈ s.sched.taken := by
  have none := List.find?_eq_none.mp (nextTaking_eq_none.mp settled).1 i mem
  rw [entryDue_mono] at none
  exact not_not.mp fun free => none ⟨free, due⟩

theorem wall_taken_of_settled {i : SlotId} (set : s.wall.state ≠ .unset) (mem : i ∈ s.sched.wallDue)
    (due : s.dueOf i < reach) : i ∈ s.sched.taken := by
  have none := List.find?_eq_none.mp (nextTaking_eq_none.mp settled).2.1 i mem
  rw [entryDue_wall] at none
  exact not_not.mp fun free => none ⟨free, set, due⟩

/-- With none due, no match waits (R98). -/
theorem found_of_settled (sound : s.CollectionsSound) : s.sched.found = [] := by
  have none := firstMatch_eq_none.mp (nextTaking_eq_none.mp settled).2.2
  rw [List.filter_eq_nil_iff] at none
  refine List.eq_nil_iff_forall_not_mem.mpr fun m mem => none m mem ?_
  obtain ⟨member, free⟩ := sound.found m mem
  simp [member, free]

end

/-! ### What is taken of what was due -/

section
variable {s t : State} {reach : Nat} (sound : s.CollectionsSound) (takings : s.Takings t)
  (settled : t.nextTaking reach = none)
include sound takings settled

/-- Every mono entry that was due has had its occurrence once none is (R35). -/
theorem takings_take_mono {i : SlotId} (mem : i ∈ s.sched.monoDue) (due : s.dueOf i ≤ s.time.mono) : i ∈ t.sched.taken := by
  obtain ⟨h, n, held, pending, next⟩ := (sound.mono i).mp mem
  rcases takings_keep takings held (by simp [pending]) with taken | same
  · exact taken
  · have after := (takings_sound takings sound).mono i
    refine mono_taken_of_settled settled (after.mpr ⟨h, n, by rw [same, held], pending, next⟩) ?_
    obtain ⟨-, -, time, -⟩ := takings_frame takings
    simpa [State.dueOf, same, time] using due

theorem takings_take_wall {i : SlotId} (set : s.wall.state ≠ .unset) (mem : i ∈ s.sched.wallDue) (due : s.dueOf i < reach) :
    i ∈ t.sched.taken := by
  obtain ⟨h, n, held, pending, next⟩ := (sound.wall i).mp mem
  obtain ⟨-, -, -, wall, -⟩ := takings_frame takings
  rcases takings_keep takings held (by simp [pending]) with taken | same
  · exact taken
  · have after := (takings_sound takings sound).wall i
    refine wall_taken_of_settled settled (by rwa [wall]) (after.mpr ⟨h, n, by rw [same, held], pending, next⟩) ?_
    simpa [State.dueOf, same] using due

/-- Every match found has been taken once none is due (R98, R102). -/
theorem takings_take_found {m : Match} (found : m ∈ s.sched.found) : (t.slot m.slot).FiredFor m.second := by
  rcases takings_found takings found with waits | fired
  · rw [found_of_settled settled (takings_sound takings sound)] at waits
    cases waits
  · exact fired

end

end Sys2Proof.Machine
end

section
/-! SUPPORT. SUSPEND and RESUME, and the second boundary with the EXPIRYs of its instant (R31, R32, R86, R98, R101). -/

namespace Sys2Proof.Machine

/-! ### The invariants after reset -/

theorem reset_queueSound : State.reset.QueueSound where
  room := by decide
  owed := rfl
  adjust := rfl
  snap := rfl
  alone := fun h => by cases h
  resting := fun _ => ⟨rfl, rfl⟩
  fetching := fun h => by cases h
  writing := fun h => absurd rfl h

theorem timebaseReset_sound : Timebase.reset.Sound where
  mono := by decide
  exhausted := fun h => by cases h
  trim := by decide
  residue := by decide
  unitLength := .inr (.inl rfl)
  disc := {
    window := by decide
    lockCount := by decide
    missLimit := by decide
    good := by decide
    seeking := fun h => by rcases h with h | h <;> cases h
    miss := by decide
    locked := fun h => by cases h
    lastError := by decide
    off := fun _ => rfl }

theorem channelReset_sound : Channel.reset.Sound where
  resting := ⟨fun _ => .inl rfl, fun _ => rfl⟩
  alone := fun _ => rfl
  room := by decide
  pulsing := fun h => by cases h

theorem captureReset_sound (line : Level) : (Capture.reset line).Sound where
  off := fun _ => rfl
  settled := fun h => by cases h
  candidate := fun _ h => by cases h

/-- Settles O2: block by block, the collections being empty and every slot FREE. -/
theorem invariantsHoldAtReset : Obligations.InvariantsHoldAtReset := by
  refine ⟨reset_queueSound, timebaseReset_sound, powerOn_sound _ _ _, fun ch => ?_, fun k => ?_, ?_⟩
  · have reset : State.reset.chan ch = .reset := by simp [State.reset, State.powerOn, State.chan]
    rw [reset]
    exact channelReset_sound
  · have reset : State.reset.cap k = .reset .low := by simp [State.reset, State.powerOn, State.cap]
    rw [reset]
    exact captureReset_sound .low
  · rintro (h | h) <;> cases h

/-! ### Suspending and resuming -/

/-- Wall now has been reached, whatever step has still to be taken (R51). -/
theorem wallNow_lt_wallReach {s : State} : s.wallNow < s.wallReach := by
  unfold State.wallReach
  split <;> omega

/-- Nothing comes next where nothing is due (R35). -/
theorem nextTaking_of_nothingDue {s : State} (nothing : s.nothingDue) : s.nextTaking s.wallReach = none := by
  obtain ⟨found, mono, wall⟩ := nothing
  refine nextTaking_eq_none.mpr ⟨List.find?_eq_none.mpr fun i mem => ?_, List.find?_eq_none.mpr fun i mem => ?_, ?_⟩
  · rw [entryDue_mono]
    exact fun due => absurd due.2 (not_le.mpr (mono i mem))
  · rw [entryDue_wall]
    rintro ⟨-, set, due⟩
    rcases wall with unset | later
    · exact set unset
    · exact absurd due (not_lt.mpr (later i mem))
  · simp [State.dueMatch, found, firstMatch]

/-- A RESUME with nothing due and no member to evaluate sets the scheduler RUNNING and no more (R32, R101). -/
theorem resumed_of_nothingDue {s : State} (nothing : s.nothingDue) (none : s.sched.patterns = []) :
    resumed s = s.setSched { s.sched with state := .running } := by
  have settled : takeAll (s.setSched { s.sched with state := .running, found := [] }) =
      s.setSched { s.sched with state := .running, found := [] } :=
    takeAll_of_none _ (nextTaking_of_nothingDue ⟨rfl, nothing.2⟩)
  have unmatched : (s.setSched { s.sched with state := .running, found := [] }).evaluate (wholeSecond s.wallNow) = [] := by
    simp [State.evaluate, none]
  have kept : s.setSched { s.sched with state := .running, found := [] } =
      s.setSched { s.sched with state := .running } := by rw [← nothing.1]
  unfold resumed
  dsimp only
  rw [settled]
  split
  · rw [offerSecond_of_no_match _ _ unmatched, settled, kept]
  · exact kept

/-- Settles O23: each owner's answer, the RESUME having nothing to take. -/
theorem suspendAndResumeTheScheduler : Obligations.SuspendAndResumeTheScheduler := by
  intro s c
  refine ⟨fun hold running => ?_, fun hold suspended => ?_, fun hold suspended nothing none => ?_, fun hold running => ?_⟩
  · exact congrArg _ (carryOut_now 0x06 s (s.setSched { s.sched with state := .suspended }) c suspendOwner .ok none .none
      hold (by rw [suspendOwner, if_pos running]; rfl) rfl)
  · exact carryOut_unchanged hold (by simp [suspendOwner, suspended, refuseWith])
  · exact congrArg _ (carryOut_now 0x07 s (s.setSched { s.sched with state := .running }) c resumeOwner .ok Option.none
      .none hold (by rw [resumeOwner, if_pos suspended, resumed_of_nothingDue nothing none]; rfl) rfl)
  · exact carryOut_unchanged hold (by simp [resumeOwner, running, refuseWith])

/-! ### What an evaluation finds is taken -/

/-- What an evaluation finds: the members that match and have had no occurrence at this instant, none found already (R98). -/
theorem mem_evaluate_iff {s : State} {second : Nat} {m : Match} : m ∈ s.evaluate second ↔
    (m.slot ∈ s.sched.patterns ∧ m.slot ∉ s.sched.taken ∧ ∃ h, (s.slot m.slot).held = some h ∧ h.matches second = true) ∧
      (∀ n ∈ s.sched.found, n.slot ≠ m.slot) ∧ m.second = second ∧
      m.lateness = s.wallNow - second * Config.secondFU := by
  obtain ⟨i, n, late⟩ := m
  simp only [State.evaluate, List.mem_map, List.mem_filter, Bool.and_eq_true, Option.any_eq_true, Bool.not_eq_true',
    List.contains_eq_mem, decide_eq_false_iff_not, List.any_eq_false, beq_iff_eq, Match.mk.injEq]
  constructor
  · rintro ⟨j, ⟨member, ⟨matching, free⟩, unfound⟩, rfl, rfl, rfl⟩
    exact ⟨⟨member, free, matching⟩, unfound, rfl, rfl⟩
  · rintro ⟨⟨member, free, matching⟩, unfound, rfl, rfl⟩
    exact ⟨i, ⟨member, ⟨matching, free⟩, unfound⟩, rfl, rfl, rfl⟩

theorem offerSecond_found {s : State} (running : s.sched.state = .running) (second : Nat) :
    (s.offerSecond second).sched.found = s.sched.found ++ s.evaluate second := by
  rw [State.offerSecond, if_pos running]
  rfl

/-- A second offered with no match waiting, and all taken that is then due: every member that matches it has been taken for it
(R98, R102, R103). -/
theorem takings_tookMatches {s t : State} {second reach : Nat} (sound : s.CollectionsSound)
    (running : s.sched.state = .running) (unfound : s.sched.found = []) (takings : (s.offerSecond second).Takings t)
    (settled : t.nextTaking reach = none) : s.tookMatches t second := by
  intro i member free h held matching
  have found : (⟨i, second, s.wallNow - second * Config.secondFU⟩ : Match) ∈ (s.offerSecond second).sched.found := by
    rw [offerSecond_found running, unfound, List.nil_append, mem_evaluate_iff]
    exact ⟨⟨member, free, h, held, matching⟩, by simp [unfound], rfl, rfl⟩
  have fired := takings_take_found (sound.offerSecond second) takings settled found
  rcases after : (t.slot i).held with _ | x
  · exact .inl rfl
  · exact .inr ⟨x, rfl, (fired x after).1⟩

/-! ### RESUME takes every due occurrence -/

/-- An answer behind the event's own reports and the completions of the deferred commands that it ended, with the event's
starts (R160, R167, R174, R184). -/
theorem carryOut_concluded {opcode : Byte} {s u : State} {c : InHand} {owner : InHand → State → Answer} {status : Status}
    {fieldNo : Option Nat} {results : Results} {ended : List Completion} (hold : s.holds c opcode)
    (answer : owner c s = { state := u, reply := .now status fieldNo results, ended := ended }) :
    (.next (carryOut opcode s owner) : Next) = .next (s.concluded
      (acceptAll s.queued u (ended ++ [c.completion status fieldNo results])).freeUnit) := by
  rw [carryOut_holds opcode s c owner hold, answer, State.concluded, ← fetchIfReady_eq, ← writeOnAcceptance_eq]
  rfl

/-- The entry into RUNNING takes all that is due in the lists, and then what matches the current wall second (R32, R101). -/
theorem resumed_takings {s : State} (sound : s.CollectionsSound) :
    ∃ begun, (s.setSched { s.sched with state := .running, found := [] }).Takings begun ∧
      begun.nextTaking s.wallReach = none ∧ (resumed s).nextTaking s.wallReach = none ∧
      (s.wall.state = .unset → resumed s = begun) ∧
      (s.wall.state ≠ .unset → (begun.offerSecond (wholeSecond s.wallNow)).Takings (resumed s)) := by
  have entered : (s.setSched { s.sched with state := .running, found := [] }).CollectionsSound :=
    sound.quiet ⟨rfl, rfl, List.Subset.refl _, List.nil_sublist _, .inl⟩
  have takings := takeAll_takings entered
  have settled := takeAll_settled entered rfl
  refine ⟨_, takings, settled, ?_⟩
  obtain ⟨-, -, time, wall, -, state⟩ := takings_frame takings
  unfold resumed
  dsimp only
  split
  · next set =>
    have offered := offerSecond_schedulesFrom
      (takeAll (s.setSched { s.sched with state := .running, found := [] })) (wholeSecond s.wallNow)
    have ready := (takings_sound takings entered).offerSecond (wholeSecond s.wallNow)
    have again := takeAll_settled ready (offered.running.trans state)
    rw [wallReach_congr (offered.time.trans time) (offered.wall.trans wall)] at again
    exact ⟨again, fun unset => by simp [Wall.active, unset] at set, fun _ => takeAll_takings ready⟩
  · next unset =>
    exact ⟨settled, fun _ => rfl, fun set => absurd (by simp [Wall.active, set]) unset⟩

theorem resumed_schedulesFrom (s : State) :
    (s.setSched { s.sched with state := .running, found := [] }).SchedulesFrom (resumed s) := by
  unfold resumed
  dsimp only
  split
  · exact ((takeAll_schedulesFrom _).trans (offerSecond_schedulesFrom _ _)).trans (takeAll_schedulesFrom _)
  · exact takeAll_schedulesFrom _

/-- What has had its occurrence before a second is offered has had it after all is taken (R36). -/
theorem takings_taken_offered {s t : State} {second : Nat} (takings : (s.offerSecond second).Takings t) {i : SlotId}
    (taken : i ∈ s.sched.taken) : i ∈ t.sched.taken := by
  refine takings_taken takings ?_
  unfold State.offerSecond
  split <;> exact taken

/-- Settles O24: the lists first, and then the matches of the current second, until none is due. -/
theorem resumeTakesEveryDueOccurrence : Obligations.ResumeTakesEveryDueOccurrence := by
  intro s c hold suspended sound
  have entered : (s.setSched { s.sched with state := .running, found := [] }).CollectionsSound :=
    sound.quiet ⟨rfl, rfl, List.Subset.refl _, List.nil_sublist _, .inl⟩
  obtain ⟨begun, takings, first, settled, unset, set⟩ := resumed_takings sound
  have frame := resumed_schedulesFrom s
  have lasting : ∀ i ∈ begun.sched.taken, i ∈ (resumed s).sched.taken := by
    intro i taken
    by_cases known : s.wall.state = .unset
    · rwa [unset known]
    · exact takings_taken_offered (set known) taken
  refine ⟨_, carryOut_concluded (ended := []) hold (by rw [resumeOwner, if_pos suspended]; rfl), frame.running, frame.time,
    frame.wall, frame.caps, frame.port, congrArg (fun u : CmdUnit => { u with state := .idle }) frame.cmd, frame.write,
    mem_acceptCompletion _ _ _, congrArg (· - 1) frame.reservations, fun i mem due => ?_, fun i mem due => ?_,
    fun known => ⟨fun i mem due => ?_, fun i mem due => ?_, fun i member free h held matching => ?_⟩⟩
  · exact mono_taken_of_settled settled mem (by rw [frame.time]; exact due)
  · exact lasting i (takings_take_mono entered takings first mem due)
  · exact wall_taken_of_settled settled (by rw [frame.wall]; exact known) mem (lt_of_le_of_lt due wallNow_lt_wallReach)
  · exact lasting i (takings_take_wall entered takings first known mem (lt_of_le_of_lt due wallNow_lt_wallReach))
  · obtain ⟨unfound, members⟩ := takings_unfound takings rfl
    obtain ⟨h', held', watching⟩ := (sound.patterns i).mp member
    obtain rfl : h = h' := Option.some.inj (held.symm.trans held')
    obtain ⟨still, same⟩ := members i h held watching free
    have after := takings_sound takings entered
    have same : begun.slot i = s.slot i := same
    obtain ⟨-, -, -, -, -, running⟩ := takings_frame takings
    exact takings_tookMatches after running unfound (set known) settled i
      ((after.patterns i).mpr ⟨h, by rw [same, held], watching⟩) still h (by rw [same, held]) matching

end Sys2Proof.Machine
end

section
/-! SUPPORT. The second boundary, the EXPIRYs of its instant, and the matching of a pattern (R86, R96 to R104). -/

namespace Sys2Proof.Machine

/-! ### The EXPIRYs of an instant -/

/-- The event's start of a report write leaves the scheduler's work alone (R184). -/
theorem State.Takes.written {s t : State} {k : Taking} (takes : s.Takes k t) : s.Takes k (s.writeStarted t) := by
  rw [← writeOnAcceptance_eq]
  exact { takes with sound := takes.sound.quiet (writeOnAcceptance_quietTable _ _) }

section
variable {s : State} (step : s.stepDue = false) (boundary : s.boundaryDue = false)
include step boundary

/-- With neither a slew step nor a second boundary to be taken, and nothing due, EXPIRY changes nothing. -/
theorem exec_expiry_settled (settled : s.nextTaking s.wallReach = none) : exec .expiry s = .next s := by
  show execExpiry s = _
  have reach : s.expiryReach = s.wallReach := by rw [State.expiryReach, step]; rfl
  rw [execExpiry, foreseen_settled s step boundary, reach, settled]
  split <;> rfl

/-- With neither a slew step nor a second boundary to be taken, EXPIRY takes what comes next (R35). -/
theorem exec_expiry_next {k : Taking} (running : s.sched.state = .running) (next : s.nextTaking s.wallReach = some k) :
    exec .expiry s = .next (s.writeStarted (takeOne s k)) := by
  show execExpiry s = _
  have reach : s.expiryReach = s.wallReach := by rw [State.expiryReach, step]; rfl
  rw [execExpiry, foreseen_settled s step boundary, reach, next, if_pos running, ← writeOnAcceptance_eq]
  rcases nextTaking_some next with ⟨i, rfl, mono | wall⟩ | ⟨m, rfl, found⟩
  · have mem : s.sched.monoDue.contains i = true := by simpa using List.mem_of_find?_eq_some mono
    dsimp only
    rw [mem, Bool.true_or]
    rfl
  · have due : s.entryDue s.wallReach .wall i = true := List.find?_some wall
    dsimp only
    rw [due, Bool.or_true]
    rfl
  · have mem : s.sched.found.contains m = true := by simpa using (dueMatch_found found).1
    dsimp only
    rw [mem]
    rfl

end

/-- What is due of the wall clock at an instant does not change with the takings of it (R78, R86). -/
theorem stepDue_congr {s t : State} (time : t.time = s.time) (wall : t.wall = s.wall) : t.stepDue = s.stepDue := by
  cases s
  cases t
  cases time
  cases wall
  rfl

theorem boundaryDue_congr {s t : State} (time : t.time = s.time) (wall : t.wall = s.wall) :
    t.boundaryDue = s.boundaryDue := by
  cases s
  cases t
  cases time
  cases wall
  rfl

/-- As many EXPIRYs as slots have had no occurrence take all that is due (R35, R36). -/
theorem afterExpiries_takings (n : Nat) {s : State} (sound : s.CollectionsSound) (running : s.sched.state = .running)
    (step : s.stepDue = false) (boundary : s.boundaryDue = false) (enough : 256 ≤ n + s.sched.taken.toFinset.card) :
    s.Takings (afterExpiries n s) ∧ (afterExpiries n s).nextTaking s.wallReach = none := by
  induction n generalizing s with
  | zero => exact ⟨.refl, nextTaking_of_all_taken (s := s) sound (by omega)⟩
  | succ n ih =>
    rcases next : s.nextTaking s.wallReach with _ | k
    · have idle : ∀ m, afterExpiries m s = s := fun m => by
        induction m with
        | zero => rfl
        | succ m ih => rw [afterExpiries, exec_expiry_settled step boundary next]; exact ih
      rw [idle]
      exact ⟨.refl, next⟩
    · have comes := nextTaking_comes sound next
      have takes := (takeOne_takes sound comes).written
      obtain ⟨takings, settled⟩ := ih takes.sound (takes.state.trans running)
        ((stepDue_congr takes.time takes.wall).trans step) ((boundaryDue_congr takes.time takes.wall).trans boundary)
        (by rw [takes.card comes]; omega)
      rw [afterExpiries, exec_expiry_next step boundary running next]
      rw [wallReach_congr takes.time takes.wall] at settled
      exact ⟨.head ⟨k, sound, comes, takes⟩ takings, settled⟩

/-! ### The second boundary -/

/-- The wall clock with the second noted in which wall time lies (log entry 24). -/
def State.noted (s : State) : State := s.setWall { s.wall with lastSecond := wholeSecond s.wallNow }

theorem noted_boundaryDue (s : State) : s.noted.boundaryDue = false := by
  have same : s.noted.wallNow = s.wallNow := rfl
  have last : s.noted.wall.lastSecond = wholeSecond s.wallNow := rfl
  simp [State.boundaryDue, same, last]

/-- A second boundary that is due notes the second and offers it (R86, R98). -/
theorem exec_boundary {s : State} (set : s.wall.state ≠ .unset) (on : s.time.exhausted = false) (step : s.stepDue = false)
    (crossed : s.wall.lastSecond < s.wallNow / 2 ^ 20) :
    exec .runningSecondBoundary s = .next (s.noted.offerSecond (wholeSecond s.wallNow)) := by
  have due : s.boundaryDue = true := by
    simp only [State.boundaryDue, on, step, Wall.active, Bool.not_false, Bool.true_and, Bool.and_true, Bool.and_eq_true,
      bne_iff_ne, decide_eq_true_eq]
    exact ⟨set, crossed⟩
  show execRunningSecondBoundary s = _
  rw [execRunningSecondBoundary, due]
  rfl

/-- The boundary's matches, and their taking by the EXPIRYs of the instant (R86, R98, R99, R102 to R104). -/
theorem boundary_takes_matches {s : State} (sound : s.CollectionsSound) (running : s.sched.state = .running)
    (set : s.wall.state ≠ .unset) (on : s.time.exhausted = false) (step : s.stepDue = false)
    (crossed : s.wall.lastSecond < s.wallNow / 2 ^ 20) (unfound : s.sched.found = []) {n : Nat} (enough : 256 ≤ n) :
    let second := s.wallNow / 2 ^ 20
    let t := { s with
      wall := { s.wall with lastSecond := second }, sched := { s.sched with found := s.noted.evaluate second } }
    let u := afterExpiries n t
    exec .runningSecondBoundary s = .next t ∧ u.time = s.time ∧ u.caps = s.caps ∧ u.port = s.port ∧ u.cmd = s.cmd ∧
      u.wall = t.wall ∧ u.sched.state = .running ∧ u.sched.found = [] ∧ s.tookMatches u second := by
  intro second t u
  have noted : s.noted.CollectionsSound := sound.quiet (.of_eq rfl rfl id)
  have offered : s.noted.offerSecond second = t := by
    have begun : s.noted.sched.state = .running := running
    have empty : s.noted.sched.found = [] := unfound
    rw [State.offerSecond, if_pos begun, empty]
    rfl
  have ready : t.CollectionsSound := offered ▸ noted.offerSecond second
  have settledStep : t.stepDue = false := step
  obtain ⟨takings, settled⟩ := afterExpiries_takings n ready running settledStep (noted_boundaryDue s)
    (Nat.le_add_right_of_le enough)
  obtain ⟨port, cmd, time, wall, caps, state⟩ := takings_frame takings
  refine ⟨(exec_boundary set on step crossed).trans (congrArg _ offered), time, caps, port, cmd, wall, state.trans running,
    found_of_settled settled (takings_sound takings ready), ?_⟩
  have took : s.noted.tookMatches u second :=
    takings_tookMatches noted running unfound (by rw [offered]; exact takings) settled
  exact took

/-! ### The EXPIRY that takes a match -/

/-- The first match is the one before which none comes (R35, R98). -/
theorem firstMatch_middle {m : Match} {before behind : List Match}
    (after : ∀ n ∈ before ++ behind, n.lateness < m.lateness ∨ n.lateness = m.lateness ∧ m.slot < n.slot) :
    firstMatch (before ++ m :: behind) = some m := by
  induction before with
  | nil =>
    rw [List.nil_append, firstMatch]
    rcases rest : firstMatch behind with _ | n
    · rfl
    · have later : n.before m = false := by
        rcases after n (by simpa using firstMatch_mem rest) with less | ⟨same, slot⟩
        · simp [Match.before, less.le, less.ne]
        · simp [Match.before, same, slot.le]
      simp [later]
  | cons k before ih =>
    have first : m.before k = true := by
      rcases after k (by simp) with less | ⟨same, slot⟩
      · simp [Match.before, less]
      · simp [Match.before, same, slot]
    rw [List.cons_append, firstMatch, ih fun n mem => after n (by simp only [List.cons_append, List.mem_cons]; exact .inr mem)]
    simp [first]

/-- The matches found without one of them (R98). -/
theorem filter_found_middle {m : Match} {before behind : List Match}
    (once : ((before ++ m :: behind).map Match.slot).Nodup) :
    (before ++ m :: behind).filter (·.slot != m.slot) = before ++ behind := by
  simp only [List.map_append, List.map_cons, List.nodup_append, List.nodup_cons, List.mem_map, List.mem_cons] at once
  obtain ⟨-, ⟨own, -⟩, apart⟩ := once
  rw [List.filter_append, List.filter_cons_of_neg (by simp)]
  congr 1
  · exact List.filter_eq_self.mpr fun n mem => by simpa using apart _ ⟨n, mem, rfl⟩ _ (.inl rfl)
  · exact List.filter_eq_self.mpr fun n mem => by simpa using fun e => own ⟨n, mem, e⟩

/-- A match comes first where every entry that is due comes after it (R35, R98). -/
theorem nextTaking_found {f : State} {reach : Nat} {m : Match} (found : f.dueMatch = some m)
    (mono : ∀ j, f.dueMono reach = some j → (f.mono : Int) - (m.lateness : Int) < (f.dueOf j : Int))
    (wall : ∀ j, f.dueWall reach = some j → (f.mono : Int) - (m.lateness : Int) < f.monoEquivalent (f.dueOf j)) :
    f.nextTaking reach = some (.found m) := by
  simp only [State.nextTaking, found]
  rcases e : f.dueMono reach with _ | i <;> rcases w : f.dueWall reach with _ | j
  · rfl
  · simp [not_le.mpr (wall j w)]
  · simp [not_le.mpr (mono i e)]
  · dsimp only
    by_cases first : (f.dueOf i : Int) ≤ f.monoEquivalent (f.dueOf j)
    · simp [first, not_le.mpr (mono i e)]
    · simp [first, not_le.mpr (wall j w)]

/-- EXPIRY takes the match that comes first, no second boundary being still to be taken (R35, R98). -/
theorem exec_expiry_match {s : State} {m : Match} {before behind : List Match} (sound : s.CollectionsSound)
    (running : s.sched.state = .running) (passed : s.wallThen / 2 ^ 20 ≤ s.wall.lastSecond)
    (list : s.sched.found = before ++ m :: behind)
    (after : ∀ n ∈ before ++ behind, n.lateness < m.lateness ∨ n.lateness = m.lateness ∧ m.slot < n.slot)
    (mono : ∀ j ∈ s.sched.monoDue, j ∉ s.sched.taken → (s.time.mono : Int) - (m.lateness : Int) < (s.dueOf j : Int))
    (wall : ∀ j ∈ s.sched.wallDue, j ∉ s.sched.taken →
      (s.time.mono : Int) - (m.lateness : Int) < (s.dueOf j : Int) - s.offsetThen) :
    exec .expiry s = .next (s.writeStarted (takeMatch s m)) := by
  have f := foreseen_foresees s
  have dueOf : ∀ j, s.foreseen.dueOf j = s.dueOf j := fun j => by simp [State.dueOf, f.slot]
  have quiet : s.foreseen = s.withStep := by
    refine withBoundary_of_none _ ?_
    have late : ¬ s.withStep.wall.lastSecond < wholeSecond s.withStep.wallNow := by
      rw [withStep_lastSecond, withStep_wallNow]
      exact not_lt.mpr passed
    simp [State.boundaryDue, late]
  have all : s.sched.found.filter (fun n => s.sched.patterns.contains n.slot && !s.sched.taken.contains n.slot) =
      s.sched.found := by
    refine List.filter_eq_self.mpr fun n mem => ?_
    obtain ⟨member, free⟩ := sound.found n mem
    simp [member, free]
  have first : s.foreseen.dueMatch = some m := by
    rw [quiet, State.dueMatch, withStep_sched, all, list]
    exact firstMatch_middle after
  have next : s.foreseen.nextTaking s.foreseen.expiryReach = some (.found m) := by
    refine nextTaking_found first (fun j hj => ?_) fun j hj => ?_
    · obtain ⟨mem, free, -⟩ := find?_entryDue_mem hj
      rw [f.monoDue] at mem
      rw [f.taken] at free
      rw [f.mono, dueOf]
      exact mono j mem free
    · obtain ⟨mem, free, -⟩ := find?_entryDue_mem hj
      rw [f.wallDue] at mem
      rw [f.taken] at free
      rw [f.mono, State.monoEquivalent, f.offset, dueOf]
      exact wall j mem free
  have mem : s.sched.found.contains m = true := by simp [list]
  show execExpiry s = _
  simp only [execExpiry, running, if_true, next, mem, writeOnAcceptance_eq]

/-! ### When a pattern matches -/

/-- A pattern's fields accept a wall second by the conditions 1 to 4 of R96. -/
theorem accepts_iff (p : Pattern) (c : Calendar) : p.accepts c = true ↔
    (p.second = none ∨ p.second = some c.second) ∧ (p.minute = none ∨ p.minute = some c.minute) ∧
      (p.hour = none ∨ p.hour = some c.hour) ∧
      (p.day = .any ∨ p.day = .day c.day ∨ p.day = .last ∧ c.lastDay = true) ∧
      p.months.getLsbD (c.month - 1) = true ∧ p.weekdays.getLsbD (c.weekday - 1) = true := by
  have field : ∀ (o : Option Nat) (n : Nat), o.all (· == n) = true ↔ o = none ∨ o = some n := by
    intro o n
    cases o <;> simp
  unfold Pattern.accepts
  cases p.day <;> simp [field, and_assoc]

/-- The fifth condition of R96 is that the second is later than the last-fired one. -/
theorem matches_iff {h : Held} {p : Pattern} (pattern : h.action.trigger = .pattern p) (second : Nat) :
    h.matches second = true ↔
      p.accepts (calendarOfSecond second) = true ∧ ∀ last, h.lastFired = some last → last < second := by
  have last : h.lastFired.all (· < second) = true ↔ ∀ last, h.lastFired = some last → last < second := by
    cases h.lastFired <;> simp
  rw [Held.matches, pattern, ← last]
  exact Bool.and_eq_true_iff

/-- The last day of a month, by the length of the month (table 4.2). -/
theorem lastDay_iff (c : Calendar) : c.lastDay = true ↔
    c.day = (if c.month = 2 then (if c.year % 4 = 0 then 29 else 28)
      else if c.month = 4 ∨ c.month = 6 ∨ c.month = 9 ∨ c.month = 11 then 30 else 31) := by
  simp [Calendar.lastDay, daysOfMonth, leapYear]

/-- Settles O28: the boundary with its EXPIRYs, the EXPIRY that takes a match, and the five conditions of R96. -/
theorem boundaryTakesEveryMatch : Obligations.BoundaryTakesEveryMatch := by
  refine ⟨fun s sound running set on step crossed unfound => ?_, ?_, fun h p second pattern _ => ?_⟩
  · obtain ⟨exec, time, caps, port, cmd, wall, state, found, took⟩ :=
      boundary_takes_matches sound running set on step crossed unfound (Nat.le_refl 256)
    refine ⟨_, exec, fun m => ?_, time, caps, port, cmd, wall, state, found, took⟩
    have empty : s.noted.sched.found = [] := unfound
    have late : s.noted.wallNow - s.wallNow / 2 ^ 20 * Config.secondFU = s.wallNow % 2 ^ 20 := by
      show s.wallNow - s.wallNow / 2 ^ 20 * Config.secondFU = _
      simp only [Config.secondFU]
      omega
    rw [mem_evaluate_iff, late]
    simp only [empty, List.not_mem_nil, false_implies, implies_true, true_and]
    exact .rfl
  · intro s m h before behind sound running passed list held after mono wall
    have member := (sound.found m (by simp [list])).1
    have expiry := exec_expiry_match sound running passed list after mono wall
    have once := filter_found_middle (list ▸ sound.foundOnce)
    rw [← list] at once
    rw [takeMatch_eq sound member held, once] at expiry
    have frame : (s.matchMoved m h { s.sched with found := before ++ behind, taken := m.slot :: s.sched.taken }).time =
        s.time ∧ (s.matchMoved m h { s.sched with found := before ++ behind, taken := m.slot :: s.sched.taken }).chans =
        s.chans := by
      unfold State.matchMoved
      split <;> exact ⟨rfl, rfl⟩
    have taken := expiryTakes_of_fireOrSkip expiry frame.1 frame.2
    obtain ⟨action, state, nextDue, remaining, fired, lastFired⟩ := h
    cases remaining <;> exact taken
  · dsimp only
    rw [matches_iff pattern, accepts_iff, lastDay_iff]
    simp only [and_assoc]

end Sys2Proof.Machine
end

section
/-! SUPPORT. An EXPIRY with nothing due: where the collections are not sound, one can still take an entry (R35). -/

namespace Sys2Proof.Machine

/-- An action due at wall instant 1, PENDING. -/
def doublyListed : Held :=
  { action := { trigger := .atWall 1, period := none, count := 1, lateLimit := 0, latePolicy := .fireLate, output := none,
                busy := .queue, fireReports := false, doneReports := false, autoRelease := false, tag := 0, followOn := none }
    state := .pending, nextDue := some ⟨.wall, 1⟩, remaining := .limited 1, fired := 0, lastFired := none }

/-- Both clocks at 0, a forward slew step due at this instant, and slot 0, whose wall due is 1, in both due lists. -/
def doublyListedState : State :=
  { State.reset with
    slots := (Vector.replicate 256 Slot.reset).set 0 { gen := 0, held := some doublyListed }
    sched := { Sched.reset with monoDue := [0], wallDue := [0] }
    wall := { Wall.reset with state := .slewing, slew := some { delta := 2, remainder := 2, applied := 0, nextStep := 0 } } }

/-- Neither list has a due entry as the clocks stand. -/
theorem doublyListedState_nothingDue : doublyListedState.nothingDue := by
  have due : doublyListedState.dueOf 0 = 1 := rfl
  have mono : doublyListedState.time.mono = 0 := rfl
  have reach : doublyListedState.wallReach = 1 := rfl
  refine ⟨rfl, fun i mem => ?_, .inr fun i mem => ?_⟩ <;> obtain rfl := List.mem_singleton.mp mem
  · rw [due, mono]; exact Nat.one_pos
  · rw [due, reach]

/-- The slew step makes the entry of the wall due list due, and it is the one that EXPIRY foresees. -/
theorem doublyListedState_next :
    doublyListedState.foreseen.nextTaking doublyListedState.foreseen.expiryReach = some (.entry 0) := by rfl

/-- The slot has had its occurrence, whatever its firing does. -/
theorem doublyListedState_taken : (takeEntry doublyListedState 0).sched.taken = [0] := by
  have taking := takeEntry_eq (s := doublyListedState) (i := 0) (h := doublyListed) (due := ⟨.wall, 1⟩) (late := 0)
    (removed := { doublyListedState.sched.without 0 with taken := [0] }) rfl rfl rfl rfl rfl
  rw [taking, (fireOrSkip_requestsFrom _ _ _ _).taken]
  exact (entryMoved_frame _ _ _ _ _ _).1

/-- Refutes O26 in its first clause, which does not ask for sound collections: slot 0, PENDING with wall due 1, stands in the
mono due list too. As the clocks stand neither list has a due entry. EXPIRY finds by its foresight that the forward slew step
still to be taken makes the wall entry due, and it does not wait for the step, since the slot is a member of the mono list. -/
theorem not_nothingIsTakenWithoutCause : ¬ Obligations.NothingIsTakenWithoutCause := by
  intro claim
  obtain ⟨quiet, -⟩ := claim doublyListedState
  have still := quiet (.inr doublyListedState_nothingDue)
  have taken := exec_expiry_entry (s := doublyListedState) rfl doublyListedState_next (.inl (List.mem_singleton.mpr rfl))
  rw [still, ← writeOnAcceptance_eq] at taken
  have none : ([] : List SlotId) = (takeEntry doublyListedState 0).sched.taken :=
    congrArg (fun t : State => t.sched.taken) (Host.Outcome.next.inj taken)
  rw [doublyListedState_taken] at none
  cases none

/-- Over sound collections no slot stands in both lists, and an EXPIRY with nothing due changes nothing (R26, R35). -/
theorem exec_expiry_of_nothingDue {s : State} (sound : s.CollectionsSound) (nothing : s.nothingDue) :
    exec .expiry s = .next s := by
  obtain ⟨unfound, mono, wall⟩ := nothing
  have f := foreseen_foresees s
  have dueOf : ∀ j, s.foreseen.dueOf j = s.dueOf j := fun j => by simp [State.dueOf, f.slot]
  show execExpiry s = _
  unfold execExpiry
  split
  · rcases next : s.foreseen.nextTaking s.foreseen.expiryReach with _ | i | m
    · rfl
    · have unlisted : i ∉ s.sched.monoDue ∧ s.entryDue s.expiryReach .wall i = false := by
        rcases nextTaking_some next with ⟨j, e, first | first⟩ | ⟨m, e, -⟩ <;> cases e
        · obtain ⟨mem, -, -⟩ := find?_entryDue_mem first
          have due := (entryDue_mono.mp (List.find?_some first)).2
          rw [f.monoDue] at mem
          rw [dueOf, show s.foreseen.time.mono = s.time.mono from f.mono] at due
          exact absurd due (not_le.mpr (mono i mem))
        · obtain ⟨mem, -, active⟩ := find?_entryDue_mem first
          rw [f.wallDue] at mem
          obtain ⟨h, n, held, -, pending⟩ := (sound.wall i).mp mem
          refine ⟨(notMem_other_list sound held pending).2 rfl, Bool.eq_false_iff.mpr fun due => ?_⟩
          obtain ⟨-, set, reached⟩ := entryDue_wall.mp due
          have later := wall.resolve_left set i mem
          have within : s.expiryReach ≤ s.wallReach := by
            have := wallNow_lt_wallReach (s := s)
            unfold State.expiryReach
            split <;> omega
          omega
      simp [unlisted]
    · simp [unfound]
  · rfl

end Sys2Proof.Machine
end

section
/-! SUPPORT. The range end (R51, R88, R89): what it does to the slots, the collections, the clocks and the report queue. -/

namespace Sys2Proof.Machine

/-! ### Completions accepted -/

/-- A completion of the event is in the queue after it (R180). -/
theorem State.AcceptsFrom.mem {s t : State} {base : Nat} {cs : List Completion} (a : s.AcceptsFrom t base cs)
    {c : Completion} (h : c ∈ cs) : .completion c ∈ t.reports.records := by
  obtain ⟨order, perm, records⟩ := a.records
  rw [records]
  refine List.mem_append_right _ (perm.mem_iff.mpr (List.mem_append_right _ ?_))
  exact List.mem_map_of_mem h

/-- What was in the queue stays in it. -/
theorem State.AcceptsFrom.mem_of_mem {s t : State} {base : Nat} {cs : List Completion} (a : s.AcceptsFrom t base cs)
    {r : Report} (h : r ∈ s.reports.records) : r ∈ t.reports.records := by
  obtain ⟨order, perm, records⟩ := a.records
  rw [records]
  rw [← List.take_append_drop base s.reports.records, List.mem_append] at h
  rcases h with old | fresh
  · exact List.mem_append_left _ old
  · exact List.mem_append_right _ (perm.mem_iff.mpr (List.mem_append_left _ fresh))

theorem State.AcceptsFrom.queued_le {s t : State} {base : Nat} {cs : List Completion} (a : s.AcceptsFrom t base cs) :
    s.queued ≤ t.queued := by
  obtain ⟨order, perm, records⟩ := a.records
  have length := perm.length_eq
  rw [State.queued, State.queued, records]
  simp only [List.length_append, List.length_take, List.length_drop, List.length_map] at length ⊢
  omega

theorem State.SchedulesFrom.queued_le {s t : State} (h : s.SchedulesFrom t) : s.queued ≤ t.queued := by
  obtain ⟨added, records, -⟩ := h.records
  rw [State.queued, State.queued, records, List.length_append]
  omega

theorem adjustEnds_length (s : State) (status : Status) : (s.adjustEnds status).length =
    if s.wall.slew.isSome = true ∧ s.cmd.adjust.isSome = true then 1 else 0 := by
  unfold State.adjustEnds
  cases s.wall.slew <;> cases s.cmd.adjust <;> rfl

theorem snapEnds_length (s : State) (status : Status) (fieldNo : Option Nat) (r : Results) :
    (s.snapEnds status fieldNo r).length = if s.wall.snap.isSome = true ∧ s.cmd.snap.isSome = true then 1 else 0 := by
  unfold State.snapEnds
  cases s.wall.snap <;> cases s.cmd.snap <;> rfl

/-! ### The removal of the wall-bound slots -/

/-- A wall-bound slot removed: FREE with auto-release on, IDLE without (R51). -/
def Slot.lost (x : Slot) : Slot :=
  match x.held with
  | none => x
  | some h =>
    if h.action.autoRelease then { gen := x.gen + 1, held := none }
    else { gen := x.gen, held := some { h with state := .idle, nextDue := none } }

theorem Slot.lost_of_held {x : Slot} {h : Held} (held : x.held = some h) : x.lost =
    if h.action.autoRelease then { gen := x.gen + 1, held := none }
    else { gen := x.gen, held := some { h with state := .idle, nextDue := none } } := by simp [Slot.lost, held]

theorem Slot.lost_lost (x : Slot) : x.lost.lost = x.lost := by
  obtain ⟨gen, _ | h⟩ := x
  · rfl
  · cases e : h.action.autoRelease <;> simp [Slot.lost, e]

theorem loseSlot_slot (s : State) (i j : SlotId) :
    (loseSlot s i).slot j = if j = i then (s.slot j).lost else s.slot j := by
  unfold loseSlot
  split
  · next free =>
    split
    · next e => subst e; simp [Slot.lost, free]
    · rfl
  · next h held =>
    split
    · next e =>
      subst e
      rw [Slot.lost_of_held held]
      unfold State.retire
      split
      · exact State.slot_setSlot_self _ _ _
      · exact State.slot_setHeld_self _ _ _
    · next ne => exact retire_slot_of_ne s h ne

/-- Every slot of a list is removed, and no other is touched (R51). -/
theorem foldl_loseSlot_slot (l : List SlotId) (s : State) (j : SlotId) :
    (l.foldl loseSlot s).slot j = if j ∈ l then (s.slot j).lost else s.slot j := by
  induction l generalizing s with
  | nil => rfl
  | cons i l ih =>
    rw [List.foldl_cons, ih, loseSlot_slot]
    by_cases own : j = i
    · simp [own, Slot.lost_lost]
    · simp [own]

/-- The removal of a slot that stands neither in the mono due list nor in a wait set. -/
theorem loseSlot_frame (s : State) (i : SlotId) (mono : i ∉ s.sched.monoDue)
    (waits : ∀ k : Fin 4, i ∉ s.sched.waits[k.val]) :
    (loseSlot s i).sched.monoDue = s.sched.monoDue ∧ (loseSlot s i).sched.waits = s.sched.waits ∧
      (loseSlot s i).sched.taken = s.sched.taken ∧ (loseSlot s i).chans = s.chans ∧
      (loseSlot s i).reports = s.reports ∧ (loseSlot s i).irq = s.irq := by
  unfold loseSlot
  split
  · exact ⟨rfl, rfl, rfl, rfl, rfl, rfl⟩
  · next h _ =>
    have kept : (s.sched.without i).waits = s.sched.waits := by
      refine Vector.ext fun k hk => ?_
      rw [s.sched.without_waits i ⟨k, hk⟩]
      exact filter_ne_of_notMem (waits ⟨k, hk⟩)
    rw [retire_sched]
    refine ⟨filter_ne_of_notMem mono, kept, rfl, ?_⟩
    unfold State.retire
    split <;> exact ⟨rfl, rfl, rfl⟩

theorem foldl_loseSlot_frame (l : List SlotId) (s : State) (mono : ∀ i ∈ l, i ∉ s.sched.monoDue)
    (waits : ∀ i ∈ l, ∀ k : Fin 4, i ∉ s.sched.waits[k.val]) :
    (l.foldl loseSlot s).sched.monoDue = s.sched.monoDue ∧ (l.foldl loseSlot s).sched.waits = s.sched.waits ∧
      (l.foldl loseSlot s).sched.taken = s.sched.taken ∧ (l.foldl loseSlot s).chans = s.chans ∧
      (l.foldl loseSlot s).reports = s.reports ∧ (l.foldl loseSlot s).irq = s.irq := by
  induction l generalizing s with
  | nil => exact ⟨rfl, rfl, rfl, rfl, rfl, rfl⟩
  | cons i l ih =>
    obtain ⟨mono', waits', taken', chans', reports', irq'⟩ := loseSlot_frame s i (mono i (by simp)) (waits i (by simp))
    obtain ⟨mono'', waits'', taken'', chans'', reports'', irq''⟩ := ih (loseSlot s i)
      (fun j mem => by rw [mono']; exact mono j (List.mem_cons_of_mem _ mem))
      (fun j mem => by rw [waits']; exact waits j (List.mem_cons_of_mem _ mem))
    exact ⟨mono''.trans mono', waits''.trans waits', taken''.trans taken', chans''.trans chans', reports''.trans reports',
      irq''.trans irq'⟩

/-- A wall-bound slot stands neither in the mono due list nor in a wait set (R2, R29). -/
theorem wallBound_apart {s : State} (sound : s.CollectionsSound) {i : SlotId} (bound : i ∈ s.sched.wallBound) :
    i ∉ s.sched.monoDue ∧ ∀ k : Fin 4, i ∉ s.sched.waits[k.val] := by
  have states : ∃ h, (s.slot i).held = some h ∧ h.state ≠ .waiting ∧
      ∀ n, h.state = .pending → h.nextDue ≠ some { clock := .mono, instant := n } := by
    rcases List.mem_append.mp bound with wall | pattern
    · obtain ⟨h, n, held, pending, due⟩ := (sound.wall i).mp wall
      exact ⟨h, held, by simp [pending], fun m _ => by simp [due]⟩
    · obtain ⟨h, held, watching⟩ := (sound.patterns i).mp pattern
      exact ⟨h, held, by simp [watching], fun m pending => by rw [watching] at pending; cases pending⟩
  obtain ⟨h, held, notWaiting, notMono⟩ := states
  refine ⟨fun mem => ?_, fun k mem => ?_⟩
  · obtain ⟨x, n, hx, pending, due⟩ := (sound.mono i).mp mem
    obtain rfl : h = x := Option.some.inj (held.symm.trans hx)
    exact notMono n pending due
  · obtain ⟨x, d, r, hx, waiting, -⟩ := (sound.waits k i).mp mem
    obtain rfl : h = x := Option.some.inj (held.symm.trans hx)
    exact notWaiting waiting

/-! ### The range end -/

/-- The part at a range end before anything of it is reported (R51, R88): slew and SNAP are over, the wall-bound slots are
removed, and the wall is UNSET. -/
def State.unwalled (s : State) : State :=
  let removed := s.sched.wallBound.foldl loseSlot s.stopSlew.dropSnap
  removed.setWall { removed.wall with state := .unset, offset := 0, lastSecond := 0 }

/-- The deferred commands that a range end answers (R88, R174). -/
def State.rangeEnded (s : State) : List Completion :=
  s.adjustEnds .superseded ++ s.snapEnds .cancelled none .noChange

theorem unwalled_schedulesFrom (s : State) : (s.stopSlew.dropSnap).SchedulesFrom
    (s.sched.wallBound.foldl loseSlot s.stopSlew.dropSnap) := foldl_schedulesFrom loseSlot_schedulesFrom _ _

theorem unwalled_offersFrom (s : State) : s.unwalled.OffersFrom
    (offer s.unwalled (.wallLost s.sched.wallBound.length Config.wallLast s.mono)) := offer_offersFrom _ _ rfl

/-- A range end offers WALL_LOST and accepts its completions (R88). -/
theorem rangeEnd_acceptsFrom (s : State) :
    (offer s.unwalled (.wallLost s.sched.wallBound.length Config.wallLast s.mono)).AcceptsFrom (rangeEnd s) s.queued
      s.rangeEnded :=
  acceptAll_acceptsFrom s.queued s.rangeEnded _
    (le_trans (unwalled_schedulesFrom s).queued_le (unwalled_offersFrom s).schedulesFrom.queued_le)

/-- What a range end does but for its reports. -/
structure State.RangeEnds (s t : State) : Prop where
  wall : t.wall = { state := .unset, offset := 0, slew := none, snap := none, lastSecond := 0 }
  cmd : t.cmd = { s.cmd with adjust := none, snap := none }
  wallDue : t.sched.wallDue = []
  patterns : t.sched.patterns = []
  monoDue : t.sched.monoDue = s.sched.monoDue
  waits : t.sched.waits = s.sched.waits
  state : t.sched.state = s.sched.state
  taken : t.sched.taken = s.sched.taken
  time : t.time = s.time
  chans : t.chans = s.chans
  caps : t.caps = s.caps
  port : t.port = s.port
  slot : ∀ i, t.slot i = if i ∈ s.sched.wallBound then (s.slot i).lost else s.slot i

theorem rangeEnd_rangeEnds {s : State} (sound : s.CollectionsSound) : s.RangeEnds (rangeEnd s) := by
  have frame := unwalled_schedulesFrom s
  have offered := unwalled_offersFrom s
  have accepted := rangeEnd_acceptsFrom s
  obtain ⟨mono, waits, taken, chans, -⟩ := foldl_loseSlot_frame s.sched.wallBound s.stopSlew.dropSnap
    (fun i mem => (wallBound_apart sound mem).1) (fun i mem => (wallBound_apart sound mem).2)
  have sched := accepted.sched.trans offered.sched
  have wall : (rangeEnd s).wall = { state := .unset, offset := 0, slew := none, snap := none, lastSecond := 0 } := by
    refine (accepted.wall.trans offered.wall).trans ?_
    rw [State.unwalled, State.setWall_wall, frame.wall]
    rfl
  obtain ⟨wallDue, patterns⟩ := (sound.moves (rangeEnd_moves s)).unset (by rw [wall])
  refine ⟨wall, (accepted.cmd.trans offered.cmd).trans frame.cmd, wallDue, patterns,
    (congrArg Sched.monoDue sched).trans mono, (congrArg Sched.waits sched).trans waits,
    (congrArg Sched.state sched).trans frame.running, (congrArg Sched.taken sched).trans taken,
    (accepted.time.trans offered.time).trans frame.time, (accepted.chans.trans offered.chans).trans chans,
    (accepted.caps.trans offered.caps).trans frame.caps, (accepted.port.trans offered.port).trans frame.port, fun i => ?_⟩
  exact (State.slot_congr (accepted.slots.trans offered.slots) i).trans (foldl_loseSlot_slot _ _ i)

/-- What a range end leaves in the report queue: its completions, and WALL_LOST where that finds room (R88, R180, R181). -/
theorem rangeEnd_reports {s : State} (sound : s.CollectionsSound) :
    (rangeEnd s).reports.write = s.reports.write ∧
      (rangeEnd s).reports.reservations = s.reports.reservations - s.rangeEnded.length ∧ s.queued ≤ (rangeEnd s).queued ∧
      (∀ c ∈ s.rangeEnded, .completion c ∈ (rangeEnd s).reports.records) ∧
      (s.port.state = .running → 1 ≤ s.reports.margin → s.reports.lost = 0 →
        .wallLost s.sched.wallBound.length Config.wallLast s.mono ∈ (rangeEnd s).reports.records) := by
  have offered := unwalled_offersFrom s
  have accepted := rangeEnd_acceptsFrom s
  obtain ⟨-, -, -, -, reports, -⟩ := foldl_loseSlot_frame s.sched.wallBound s.stopSlew.dropSnap
    (fun i mem => (wallBound_apart sound mem).1) (fun i mem => (wallBound_apart sound mem).2)
  have reports : s.unwalled.reports = s.reports := reports
  have port : s.unwalled.port = s.port := (unwalled_schedulesFrom s).port
  refine ⟨by rw [accepted.write, offered.write, reports], by rw [accepted.reservations, offered.reservations, reports],
    le_trans ((unwalled_schedulesFrom s).queued_le.trans offered.schedulesFrom.queued_le) accepted.queued_le,
    fun c mem => accepted.mem mem, fun running room lost => accepted.mem_of_mem ?_⟩
  rw [offer, port, reports, if_pos ⟨running, room⟩, if_pos lost, State.append_reports]
  simp

/-- Whether a range end is due (R88). -/
theorem rangeEndDue_of {s : State} (on : s.time.exhausted = false) (set : s.wall.state ≠ .unset)
    (last : 3155760000 * 2 ^ 20 - 1 ≤ s.wallNow ∨ 3155760000 * 2 ^ 20 - 1 ≤ s.wallNow + 1 ∧ s.wall.state = .slewing ∧
      ∃ w, s.wall.slew = some w ∧ w.nextStep = s.time.mono ∧ 0 < w.remainder) : s.rangeEndDue = true := by
  have here : s.rangeEndHere = true := by
    unfold State.rangeEndHere
    rw [Bool.or_eq_true]
    rcases last with now | ⟨near, slewing, w, slew, step, forward⟩
    · exact .inl (by simpa using now)
    · have falls : s.stepHere = some w := by
        simp [State.stepHere, on, slewing, slew, State.mono, step]
      exact .inr (by rw [falls]; simpa using ⟨forward.le, near⟩)
  simp [State.rangeEndDue, on, Wall.active, set, here]

/-- Settles O38: the range end is due, the wall-bound slots are those removed, and the reports are in the queue. -/
theorem rangeEndUnsetsTheWall : Obligations.RangeEndUnsetsTheWall := by
  intro s sound queue on set last
  have due := rangeEndDue_of on set last
  have ends := rangeEnd_rangeEnds sound
  obtain ⟨write, -, -, answered, told⟩ := rangeEnd_reports sound
  have taken : exec .rangeEnd s = .next (s.writeStarted (rangeEnd s)) := by
    show execRangeEnd s = _
    rw [execRangeEnd, due, ← writeOnAcceptance_eq]
    rfl
  refine ⟨_, taken, ends.wall, ends.wallDue, ends.patterns, ends.monoDue, ends.waits, ends.state, ends.taken, ends.time,
    ends.chans, ends.caps, ends.port, ?_, fun i wall patterns => ?_, fun i h bound held => ?_, fun w d slew adjust => ?_,
    fun d snap => ?_, fun running room lost => ?_⟩
  · exact write
  · rw [ends.slot, if_neg (by simp [Sched.wallBound, wall, patterns])]
  · rw [ends.slot, if_pos (by simpa [Sched.wallBound] using bound), Slot.lost_of_held held]
  · exact answered (d.completion opAdjust .superseded none (.applied w.applied))
      (List.mem_append_left _ (by simp [State.adjustEnds, slew, adjust]))
  · obtain ⟨n, pending⟩ := Option.isSome_iff_exists.mp ((queue.snap.symm.trans (by rw [snap]; rfl)) : s.wall.snap.isSome = true)
    exact answered (d.completion opSnap .cancelled none .noChange)
      (List.mem_append_right _ (by simp [State.snapEnds, pending, snap]))
  · have number : s.sched.wallBound.length = s.sched.wallDue.length + s.sched.patterns.length := List.length_append
    rw [number] at told
    exact told running room lost

end Sys2Proof.Machine
end

section
/-! SUPPORT. Wall changes (R73 to R75, R81, R82, R84): what one does to the clock, and what the scheduler takes in it (R47, R48,
R87, R100). -/

namespace Sys2Proof.Machine

/-! ### The scheduler in a wall change -/

/-- Takings until none is due take what was due, with wall time at any instant that has been reached (R35, R47). -/
theorem takings_tookWhatIsDue {s t : State} {reach new : Nat} (sound : s.CollectionsSound) (set : s.wall.state ≠ .unset)
    (takings : s.Takings t) (settled : t.nextTaking reach = none) (reached : new < reach) : s.tookWhatIsDue t new := by
  obtain ⟨-, -, time, wall, -, -⟩ := takings_frame takings
  refine ⟨fun i mem due => takings_take_mono sound takings settled mem due,
    fun i mem due => takings_take_wall sound takings settled set mem (lt_of_le_of_lt due reached),
    fun i mem due => mono_taken_of_settled settled mem (by rw [time]; exact due),
    fun i mem due => wall_taken_of_settled settled (by rw [wall]; exact set) mem (lt_of_le_of_lt due reached)⟩

section
variable {s : State} (sound : s.CollectionsSound) (running : s.sched.state = .running)
include sound running

/-- After a forward change all that is due is taken, with or without a landing second (R47). -/
theorem changeSchedule_tookWhatIsDue (set : s.wall.state ≠ .unset) (landing : Option Nat) :
    s.tookWhatIsDue (changeSchedule s true landing) s.wallNow := by
  cases landing with
  | none => exact takings_tookWhatIsDue sound set (takeAll_takings sound) (takeAll_settled sound running) wallNow_lt_wallReach
  | some second =>
    have ready := sound.offerSecond second
    have begun : (s.offerSecond second).sched.state = .running := (offerSecond_schedulesFrom s second).running.trans running
    have settled := takeAll_settled ready begun
    have takings := takeAll_takings ready
    have offered : s.offerSecond second = s.setSched { s.sched with found := s.sched.found ++ s.evaluate second } := by
      rw [State.offerSecond, if_pos running]
    have took : (s.offerSecond second).tookWhatIsDue (takeAll (s.offerSecond second)) s.wallNow := by
      refine takings_tookWhatIsDue ready ?_ takings settled ?_
      · rw [offered]; exact set
      · rw [offered]; exact wallNow_lt_wallReach
    rw [offered] at took
    rw [changeSchedule, Bool.true_or, if_pos rfl, offered]
    exact took

/-- What matches the landing second is taken, in a forward change or in one that is not (R87, R100). -/
theorem changeSchedule_tookMatches (unfound : s.sched.found = []) (forward : Bool) (second : Nat) :
    s.tookMatches (changeSchedule s forward (some second)) second := by
  unfold changeSchedule
  dsimp only
  split
  · have ready := sound.offerSecond second
    have begun : (s.offerSecond second).sched.state = .running := (offerSecond_schedulesFrom s second).running.trans running
    exact takings_tookMatches sound running unfound (takeAll_takings ready) (takeAll_settled ready begun)
  · next quiet =>
    intro i member free h held matching
    have found : (⟨i, second, s.wallNow - second * Config.secondFU⟩ : Match) ∈ s.evaluate second :=
      mem_evaluate_iff.mpr ⟨⟨member, free, h, held, matching⟩, by simp [unfound], rfl, rfl⟩
    refine absurd ?_ quiet
    simp [List.ne_nil_of_mem found]

end

/-- A change moves nothing where the scheduler is not RUNNING, or where it is not forward and no member matches its landing
second (R30, R48, R100). -/
theorem changeSchedule_still {s : State} {forward : Bool} {landing : Option Nat}
    (still : s.sched.state ≠ .running ∨ forward = false ∧ ∀ second, landing = some second →
      ∀ i ∈ s.sched.patterns, ∀ h, (s.slot i).held = some h → h.matches second = false) :
    changeSchedule s forward landing = s := by
  rcases still with resting | ⟨rfl, unmatched⟩
  · have passed : ∀ second, s.offerSecond second = s := fun second => by rw [State.offerSecond, if_neg resting]
    cases landing with
    | none => simp [changeSchedule, takeAll_of_not_running s resting]
    | some second => simp [changeSchedule, passed, takeAll_of_not_running s resting]
  · cases landing with
    | none => rfl
    | some second =>
      have none : s.evaluate second = [] := by
        refine List.eq_nil_iff_forall_not_mem.mpr fun m mem => ?_
        obtain ⟨⟨member, -, h, held, matching⟩, -⟩ := mem_evaluate_iff.mp mem
        rw [unmatched second rfl _ member h held] at matching
        cases matching
      simp [changeSchedule, none]

/-! ### The clock in a wall change -/

/-- The wall clock placed at a new instant, a slew in flight having stopped (R73). -/
def State.placedAt (s : State) (new : Nat) : State :=
  s.stopSlew.setWall { s.stopSlew.wall with
    state := .running, offset := (new : Int) - (s.mono : Int), lastSecond := wholeSecond new }

theorem placedAt_wallNow (s : State) (new : Nat) : (s.placedAt new).wallNow = new := by
  show ((s.time.mono : Int) + ((new : Int) - (s.time.mono : Int))).toNat = new
  omega

/-- The landing second of a change, where the whole second changes (R87). -/
def landingOf (old new : Nat) : Option Nat := if wholeSecond new = wholeSecond old then none else some (wholeSecond new)

/-- What a wall change makes of the part but for the range end and the matches of its landing second (R46 to R48, R73). -/
structure State.LandsAt (s : State) (new : Nat) (t : State) : Prop where
  sound : t.CollectionsSound
  time : t.time = s.time
  port : t.port = s.port
  caps : t.caps = s.caps
  state : t.sched.state = s.sched.state
  write : t.reports.write = s.reports.write
  wall : t.wall = { s.wall with state := .running, offset := (new : Int) - (s.time.mono : Int), slew := none,
                                lastSecond := new / 2 ^ 20 }
  cmd : t.cmd = { s.cmd with adjust := none }
  reservations : t.reports.reservations = s.reports.reservations
  queued : s.queued ≤ t.queued
  due : s.sched.state = .running → s.wallNow < new → s.tookWhatIsDue t new
  still : (s.sched.state ≠ .running ∨ new ≤ s.wallNow ∧ (new / 2 ^ 20 ≠ s.wallNow / 2 ^ 20 → ∀ i ∈ s.sched.patterns, ∀ h,
      (s.slot i).held = some h → h.matches (new / 2 ^ 20) = false)) →
    t.slots = s.slots ∧ t.sched = s.sched ∧ t.chans = s.chans

/-- The scheduler's part in a wall change, with the landing second handed to it or not. -/
theorem changeSchedule_landsAt {s : State} (sound : s.CollectionsSound) (new choices : Nat) {landing : Option Nat}
    (lands : landing = none ∨ landing = landingOf s.wallNow new) :
    s.LandsAt new (changeSchedule ((s.placedAt new).setChoices choices) (decide (s.wallNow < new)) landing) := by
  obtain ⟨v, hv⟩ : ∃ v, (s.placedAt new).setChoices choices = v := ⟨_, rfl⟩
  have ready : v.CollectionsSound := by rw [← hv]; exact sound.quiet (.of_eq rfl rfl (by rintro ⟨⟩))
  have frame := changeSchedule_schedulesFrom v (decide (s.wallNow < new)) landing
  have now : v.wallNow = new := by rw [← hv]; exact placedAt_wallNow s new
  rw [hv]
  refine ⟨ready.moves (changeSchedule_moves _ _ _), ?_, ?_, ?_, ?_, ?_, ?_, ?_, ?_, ?_, fun running forward => ?_, fun still => ?_⟩
  · rw [frame.time, ← hv]; rfl
  · rw [frame.port, ← hv]; rfl
  · rw [frame.caps, ← hv]; rfl
  · rw [frame.running, ← hv]; rfl
  · rw [frame.write, ← hv]; rfl
  · rw [frame.wall, ← hv]; rfl
  · rw [frame.cmd, ← hv]; rfl
  · rw [frame.reservations, ← hv]; rfl
  · refine le_trans (le_of_eq ?_) frame.queued_le
    rw [← hv]; rfl
  · have begun : v.sched.state = .running := by rw [← hv]; exact running
    have took := changeSchedule_tookWhatIsDue ready begun (by rw [← hv]; rintro ⟨⟩) landing
    rw [now] at took
    rw [decide_eq_true forward]
    subst hv
    exact took
  · have same : changeSchedule v (decide (s.wallNow < new)) landing = v := by
      refine changeSchedule_still ?_
      subst hv
      refine still.imp id fun ⟨back, unmatched⟩ => ⟨decide_eq_false (not_lt.mpr back), fun second e => ?_⟩
      rcases lands with none | landed
      · rw [none] at e; cases e
      · rw [landed, landingOf] at e
        split at e
        · cases e
        · next crossed => cases e; exact unmatched crossed
    rw [same, ← hv]
    exact ⟨rfl, rfl, rfl⟩

/-- A wall change taken while there is wall time: the clock is placed and the scheduler takes what that makes due; on the last
FU of the range, in another whole second, the range end may come in the same event (R46, R73, R88, R106, log entry 28). -/
theorem wallChange_cases {s : State} (sound : s.CollectionsSound) (set : s.wall.state ≠ .unset) (new : Nat) :
    (s.LandsAt new (wallChange s new).1 ∧
      (s.sched.state = .running → s.sched.found = [] → new / 2 ^ 20 ≠ s.wallNow / 2 ^ 20 →
        s.tookMatches (wallChange s new).1 (new / 2 ^ 20))) ∨
    new / 2 ^ 20 ≠ s.wallNow / 2 ^ 20 ∧ new = Config.wallLast ∧
      ∃ u, s.LandsAt new u ∧ (wallChange s new).1 = rangeEnd u := by
  have active : (!s.wall.active) = false := by simp [Wall.active, set]
  have took : ∀ choices, s.sched.state = .running → s.sched.found = [] → s.tookMatches
      (changeSchedule ((s.placedAt new).setChoices choices) (decide (s.wallNow < new)) (some (wholeSecond new)))
      (new / 2 ^ 20) := by
    intro choices running unfound
    have ready : ((s.placedAt new).setChoices choices).CollectionsSound :=
      sound.quiet (.of_eq rfl rfl (by rintro ⟨⟩))
    exact changeSchedule_tookMatches ready running unfound (decide (s.wallNow < new)) (wholeSecond new)
  unfold wallChange
  simp only [active, Bool.false_eq_true, if_false]
  split
  · next same =>
    exact .inl ⟨changeSchedule_landsAt sound new s.choices (.inl rfl), fun _ _ crossed => absurd same crossed⟩
  · next crossed =>
    have landing : some (wholeSecond new) = landingOf s.wallNow new := by rw [landingOf, if_neg crossed]
    split
    · next last =>
      split
      · exact .inr ⟨crossed, last, _, changeSchedule_landsAt sound new (s.choices + 1) (.inl rfl), rfl⟩
      · exact .inl ⟨changeSchedule_landsAt sound new (s.choices + 1) (.inr landing),
          fun running unfound _ => took _ running unfound⟩
    · exact .inl ⟨changeSchedule_landsAt sound new s.choices (.inr landing),
        fun running unfound _ => took s.choices running unfound⟩

/-! ### The refusals, and the change of the clock alone -/

section
variable {r : Record}

theorem snapRequestOf_badUnit (unit : 1 < (byteAt r 4).toNat) : snapRequestOf r = .error 1 := by
  have none : snapUnitOf (byteAt r 4).toNat = none := by
    unfold snapUnitOf
    split
    · omega
    · omega
    · rfl
  rw [snapRequestOf, none]

theorem snapUnitOf_valid (unit : (byteAt r 4).toNat ≤ 1) : ∃ u, snapUnitOf (byteAt r 4).toNat = some u := by
  have values : (byteAt r 4).toNat = 0 ∨ (byteAt r 4).toNat = 1 := by omega
  rcases values with e | e <;> rw [e] <;> exact ⟨_, rfl⟩

theorem snapRequestOf_badSource (unit : (byteAt r 4).toNat ≤ 1) (source : 1 < (byteAt r 5).toNat) :
    snapRequestOf r = .error 2 := by
  obtain ⟨u, valid⟩ := snapUnitOf_valid unit
  rw [snapRequestOf, valid]
  dsimp only
  split
  · omega
  · omega
  · rfl

theorem snapRequestOf_now {u : SnapUnit} (unit : snapUnitOf (byteAt r 4).toNat = some u) (source : byteAt r 5 = 0) :
    snapRequestOf r = .ok (.now u) := by
  rw [snapRequestOf, unit, source]
  rfl

end

/-- SNAP_TIME with source NOW is carried out by snapNow (R82). -/
theorem snapTimeOwner_now {s : State} {c : InHand} {u : SnapUnit} (unit : snapUnitOf (byteAt c.record 4).toNat = some u)
    (source : byteAt c.record 5 = 0) : snapTimeOwner c s = snapNow s u := by
  rw [snapTimeOwner, snapRequestOf_now unit source]

/-- A rounding beyond the range is refused (R81, R82). -/
theorem snapNow_beyond {s : State} {u : SnapUnit} (set : s.wall.state ≠ .unset) (beyond : Config.wallLast < u.round s.wallNow) :
    snapNow s u = badField s 1 .noChange := by
  simp [snapNow, Wall.active, set, beyond]

theorem second_round_beyond {n : Nat} (late : 3155760000 * 2 ^ 20 - 524288 ≤ n) :
    Config.wallLast < SnapUnit.second.round n := by
  simp only [SnapUnit.round, SnapUnit.length, Config.wallLast, Config.secondFU]
  omega

theorem minute_round_beyond {n : Nat} (late : 3155760000 * 2 ^ 20 - 31457280 ≤ n) :
    Config.wallLast < SnapUnit.minute.round n := by
  simp only [SnapUnit.round, SnapUnit.length, Config.wallLast, Config.minuteFU]
  omega

theorem wallPlus_eq_some {s : State} {delta : Int} {new : Nat} (sum : (new : Int) = (s.wallNow : Int) + delta)
    (within : new ≤ Config.wallLast) : s.wallPlus delta = some new := by
  have range : 0 ≤ (s.wallNow : Int) + delta ∧ (s.wallNow : Int) + delta ≤ (Config.wallLast : Int) := by omega
  rw [State.wallPlus, if_pos range, ← sum]
  rfl

theorem wallPlus_eq_none {s : State} {delta : Int}
    (outside : (s.wallNow : Int) + delta < 0 ∨ 3155760000 * 2 ^ 20 - 1 < (s.wallNow : Int) + delta) :
    s.wallPlus delta = none := by
  refine if_neg fun range => ?_
  simp only [Config.wallLast] at range
  omega

/-- A change back within the present second, or by nothing, places the clock and hands the scheduler nothing (R48, R87). -/
theorem wallChange_within {s : State} {new : Nat} (set : s.wall.state ≠ .unset) (same : new / 2 ^ 20 = s.wallNow / 2 ^ 20)
    (back : new ≤ s.wallNow) : wallChange s new = (s.placedAt new, s.adjustEnds .superseded) := by
  have active : (!s.wall.active) = false := by simp [Wall.active, set]
  have within : wholeSecond new = wholeSecond s.wallNow := same
  have still : changeSchedule (s.placedAt new) (decide (s.wallNow < new)) none = s.placedAt new := by
    rw [decide_eq_false (not_lt.mpr back)]
    rfl
  unfold wallChange
  simp only [active, Bool.false_eq_true, if_false]
  rw [if_pos within]
  exact Prod.ext still rfl

/-- Without a slew, a wall change places the clock and no more. -/
theorem placedAt_unslewed {s : State} {new : Nat} (running : s.wall.state = .running) (slew : s.wall.slew = none)
    (adjust : s.cmd.adjust = none) : s.placedAt new =
      { s with wall := { s.wall with offset := (new : Int) - (s.time.mono : Int), lastSecond := new / 2 ^ 20 } } := by
  have wall : { s.wall with slew := none, state := .running, offset := (new : Int) - (s.mono : Int),
                            lastSecond := wholeSecond new } =
      { s.wall with offset := (new : Int) - (s.time.mono : Int), lastSecond := new / 2 ^ 20 } := by
    rw [← running, ← slew]; rfl
  have cmd : { s.cmd with adjust := none } = s.cmd := by rw [← adjust]
  unfold State.placedAt State.stopSlew
  simp only [State.setCmd_wall, State.setWall_wall, wall, cmd]
  rfl

/-- Settles O34: each check in its order, and the change that moves the clock alone. -/
theorem stepAndSnapChecksAndTheLoneClockChange : Obligations.StepAndSnapChecksAndTheLoneClockChange := by
  intro s c
  have unset : s.wall.state = .unset → s.wall.active = false := fun e => by simp [Wall.active, e]
  have active : s.wall.state ≠ .unset → s.wall.active = true := fun e => by simp [Wall.active, e]
  refine ⟨fun hold state => ?_, fun hold set outside => ?_, fun hold unit => ?_, fun hold unit source => ?_,
    fun hold unit source state => ?_, fun hold unit source set late => ?_, fun hold unit source set late => ?_,
    fun hold running slew adjust begun last back near => ?_⟩
  · exact carryOut_unchanged hold (by simp [stepTimeOwner, unset state, refuseWith])
  · have none : s.wallPlus (deltaOf c.record) = none := wallPlus_eq_none outside
    exact carryOut_unchanged hold (by simp [stepTimeOwner, active set, none, badField])
  · exact carryOut_unchanged hold (by rw [snapTimeOwner, snapRequestOf_badUnit unit]; rfl)
  · exact carryOut_unchanged hold (by rw [snapTimeOwner, snapRequestOf_badSource unit source]; rfl)
  · obtain ⟨u, valid⟩ := snapUnitOf_valid unit
    exact carryOut_unchanged hold (by simp [snapTimeOwner_now valid source, snapNow, unset state, refuseWith])
  · exact carryOut_unchanged hold (by
      rw [snapTimeOwner_now (u := .second) (by rw [unit]; rfl) source, snapNow_beyond set (second_round_beyond late)]; rfl)
  · exact carryOut_unchanged hold (by
      rw [snapTimeOwner_now (u := .minute) (by rw [unit]; rfl) source, snapNow_beyond set (minute_round_beyond late)]; rfl)
  · obtain ⟨new, landed⟩ : ∃ new : Nat, (new : Int) = (s.wallNow : Int) + deltaOf c.record :=
      ⟨((s.wallNow : Int) + deltaOf c.record).toNat, by unfold deltaOf; omega⟩
    have delta : deltaOf c.record = (le64 c.record 8).toInt := rfl
    have set : s.wall.state ≠ .unset := by rw [running]; rintro ⟨⟩
    have now : (s.wallNow : Int) = (s.time.mono : Int) + s.wall.offset := Int.toNat_of_nonneg begun
    have earlier : new ≤ s.wallNow := by omega
    have same : new / 2 ^ 20 = s.wallNow / 2 ^ 20 := by omega
    have offset : (new : Int) - (s.time.mono : Int) = s.wall.offset + (le64 c.record 8).toInt := by omega
    rw [← delta, ← landed, Int.toNat_natCast, delta, ← offset, ← same, ← placedAt_unslewed running slew adjust]
    refine congrArg _ (carryOut_now 0x0A s (s.placedAt new) c stepTimeOwner .ok none _ hold ?_ rfl)
    have ended : s.adjustEnds .superseded = [] := by simp [State.adjustEnds, slew]
    rw [stepTimeOwner, active set, wallPlus_eq_some landed (by simp only [Config.wallLast]; omega)]
    simp only [changeWith, wallChange_within set same earlier, ended]
    rfl

end Sys2Proof.Machine
end

section
/-! SUPPORT. The commands that change wall time (R73 to R75, R82), and the good edge that applies a pending SNAP (R60, R84). -/

namespace Sys2Proof.Machine

/-! ### What the acceptance of completions leaves of a wall change -/

theorem tookWhatIsDue_congr {s t u : State} {new : Nat} (sched : u.sched = t.sched) (slots : u.slots = t.slots)
    (took : s.tookWhatIsDue t new) : s.tookWhatIsDue u new := by
  have due : u.dueOf = t.dueOf := by funext i; simp [State.dueOf, State.slot, slots]
  unfold State.tookWhatIsDue
  rw [sched, due]
  exact took

theorem tookMatches_congr {s t u : State} {second : Nat} (slots : u.slots = t.slots) (took : s.tookMatches t second) :
    s.tookMatches u second := by
  unfold State.tookMatches State.slot
  rw [slots]
  exact took

/-- A range end takes nothing from what has been taken, and leaves no wall entry (R51). -/
theorem State.RangeEnds.tookWhatIsDue {s t u : State} {new : Nat} (ends : t.RangeEnds u) (sound : t.CollectionsSound)
    (took : s.tookWhatIsDue t new) : s.tookWhatIsDue u new := by
  obtain ⟨mono, wall, monoLeft, -⟩ := took
  refine ⟨fun i mem due => ?_, fun i mem due => ?_, fun i mem due => ?_, fun i mem => ?_⟩
  · rw [ends.taken]; exact mono i mem due
  · rw [ends.taken]; exact wall i mem due
  · rw [ends.monoDue] at mem
    have apart : i ∉ t.sched.wallBound := fun bound => (wallBound_apart sound bound).1 mem
    have same : u.dueOf i = t.dueOf i := by rw [State.dueOf, ends.slot, if_neg apart]; rfl
    rw [ends.taken]
    exact monoLeft i mem (same ▸ due)
  · rw [ends.wallDue] at mem
    cases mem

/-- Wall time is at the instant at which its offset places it (R69, R73). -/
theorem wallNow_of_offset {s t : State} {new : Nat} (time : t.time = s.time)
    (offset : t.wall.offset = (new : Int) - (s.time.mono : Int)) : t.wallNow = new := by
  rw [State.wallNow, time, offset]
  omega

/-! ### What a wall change answers -/

/-- The answer to a wall change, that of a slew in flight before it (R73, R174). -/
def State.changeAnswers (s : State) (own : Completion) : List Completion := s.adjustEnds .superseded ++ [own]

theorem own_mem_changeAnswers (s : State) (own : Completion) : own ∈ s.changeAnswers own :=
  List.mem_append_right _ (List.mem_singleton.mpr rfl)

theorem superseded_mem_changeAnswers {s : State} {w : Slew} {d : Deferred} (slew : s.wall.slew = some w)
    (adjust : s.cmd.adjust = some d) (own : Completion) :
    d.completion opAdjust .superseded none (.applied w.applied) ∈ s.changeAnswers own :=
  List.mem_append_left _ (by simp [State.adjustEnds, slew, adjust])

theorem changeAnswers_length (s : State) (own : Completion) : (s.changeAnswers own).length =
    if s.wall.slew.isSome = true ∧ s.cmd.adjust.isSome = true then 2 else 1 := by
  rw [State.changeAnswers, List.length_append, adjustEnds_length]
  split <;> rfl

/-! ### The commands -/

/-- The three commands that change wall time while there is any, as they are asked for (R74, R75, R82). -/
def State.asksFor (s : State) (c : InHand) (cmd : Instr) (new : Nat) : Prop :=
  (cmd = .setTime ∧ s.holds c 0x09 ∧ calendarError (setTimeFields c.record) (le32 c.record 12).toNat = none ∧
      new = secondOfCalendar (setTimeFields c.record) * 2 ^ 20 + (le32 c.record 12).toNat) ∨
    (cmd = .stepTime ∧ s.holds c 0x0A ∧ (new : Int) = (s.time.mono : Int) + s.wall.offset + (le64 c.record 8).toInt ∧
      new ≤ 3155760000 * 2 ^ 20 - 1) ∨
    (cmd = .snapTime ∧ s.holds c 0x0C ∧ byteAt c.record 5 = 0 ∧
      ((byteAt c.record 4 = 0 ∧ new = SnapUnit.second.round s.wallNow) ∨
        (byteAt c.record 4 = 1 ∧ new = SnapUnit.minute.round s.wallNow)) ∧ new ≤ 3155760000 * 2 ^ 20 - 1)

/-- The answer of such a command: the new wall instant and the change (R73). -/
def State.changeAnswer (s : State) (c : InHand) (new : Nat) : Completion :=
  c.completion .ok none (.wallChanged new (some ((new : Int) - (s.wallNow : Int))))

/-- Each of the commands makes the wall change it asks for, and answers the change (R73 to R75, R82). -/
theorem exec_asksFor {s : State} {c : InHand} {cmd : Instr} {new : Nat} (set : s.wall.state ≠ .unset)
    (begun : 0 ≤ (s.time.mono : Int) + s.wall.offset) (asks : s.asksFor c cmd new) :
    exec cmd s = .next (s.concluded (acceptAll s.queued (wallChange s new).1 (s.changeAnswers (s.changeAnswer c new))).freeUnit) := by
  have active : s.wall.active = true := by simp [Wall.active, set]
  have now : (s.wallNow : Int) = (s.time.mono : Int) + s.wall.offset := Int.toNat_of_nonneg begun
  rcases asks with ⟨rfl, hold, valid, rfl⟩ | ⟨rfl, hold, landed, within⟩ | ⟨rfl, hold, source, unit, within⟩
  · refine carryOut_concluded (owner := setTimeOwner) hold ?_
    have asked : setTimeInstant c.record =
        .ok (secondOfCalendar (setTimeFields c.record) * 2 ^ 20 + (le32 c.record 12).toNat) := by
      rw [setTimeInstant, valid]
      rfl
    rw [setTimeOwner, asked, active]
    rfl
  · refine carryOut_concluded (owner := stepTimeOwner) hold ?_
    have sum : (new : Int) = (s.wallNow : Int) + deltaOf c.record := by rw [now, landed]; rfl
    have change : deltaOf c.record = (new : Int) - (s.wallNow : Int) := by omega
    rw [stepTimeOwner, active, wallPlus_eq_some sum within, change]
    rfl
  · refine carryOut_concluded (owner := snapTimeOwner) hold ?_
    obtain ⟨u, valid, rfl⟩ : ∃ u, snapUnitOf (byteAt c.record 4).toNat = some u ∧ new = u.round s.wallNow := by
      rcases unit with ⟨e, rfl⟩ | ⟨e, rfl⟩
      · exact ⟨.second, by rw [e]; rfl, rfl⟩
      · exact ⟨.minute, by rw [e]; rfl, rfl⟩
    have inside : ¬ Config.wallLast < u.round s.wallNow := not_lt.mpr within
    rw [snapTimeOwner_now valid source, snapNow, active]
    dsimp only
    rw [if_neg inside]
    rfl

/-- What a range end in the event of a wall change answers: the pending SNAP alone, the slew being over (R73, R88). -/
theorem State.LandsAt.rangeEnded_length {s u : State} {new : Nat} (lands : s.LandsAt new u) : u.rangeEnded.length =
    if s.wall.snap.isSome = true ∧ s.cmd.snap.isSome = true then 1 else 0 := by
  rw [State.rangeEnded, List.length_append, adjustEnds_length, snapEnds_length, lands.wall, lands.cmd]
  simp

/-- Settles O33: the change lands on the new instant, or the range end comes in its event. -/
theorem wallChangeLandsOnTheNewInstant : Obligations.WallChangeLandsOnTheNewInstant := by
  intro s c cmd new sound set begun asks landing owed
  rcases wallChange_cases sound set new with ⟨lands, matched⟩ | ⟨crossed, last, u, lands, ended⟩
  · have a := acceptAll_acceptsFrom s.queued (s.changeAnswers (s.changeAnswer c new)) (wallChange s new).1 lands.queued
    have wall := a.wall.trans lands.wall
    refine ⟨_, exec_asksFor set begun asks, a.time.trans lands.time, a.port.trans lands.port, a.caps.trans lands.caps,
      (congrArg Sched.state a.sched).trans lands.state, a.write.trans lands.write, a.mem (own_mem_changeAnswers _ _),
      fun w d slew adjust => a.mem (superseded_mem_changeAnswers slew adjust _),
      fun running forward => tookWhatIsDue_congr a.sched a.slots (lands.due running forward),
      .inl ⟨wall, ?_, ?_, ?_, fun running unfound crossed => tookMatches_congr a.slots (matched running unfound crossed),
        fun still => ?_⟩⟩
    · exact wallNow_of_offset (a.time.trans lands.time) (congrArg Wall.offset wall)
    · exact congrArg (fun u : CmdUnit => { u with state := .idle }) (a.cmd.trans lands.cmd)
    · refine a.reservations.trans ?_
      rw [lands.reservations, changeAnswers_length]
    · obtain ⟨slots, sched, chans⟩ := lands.still still
      exact ⟨a.slots.trans slots, a.sched.trans sched, a.chans.trans chans⟩
  · have ends := rangeEnd_rangeEnds lands.sound
    obtain ⟨write, reservations, queued, -, -⟩ := rangeEnd_reports lands.sound
    rw [← ended] at ends write reservations queued
    have a := acceptAll_acceptsFrom s.queued (s.changeAnswers (s.changeAnswer c new)) (wallChange s new).1 (lands.queued.trans queued)
    refine ⟨_, exec_asksFor set begun asks, (a.time.trans ends.time).trans lands.time,
      (a.port.trans ends.port).trans lands.port, (a.caps.trans ends.caps).trans lands.caps,
      ((congrArg Sched.state a.sched).trans ends.state).trans lands.state, (a.write.trans write).trans lands.write,
      a.mem (own_mem_changeAnswers _ _),
      fun w d slew adjust => a.mem (superseded_mem_changeAnswers slew adjust _),
      fun running forward => tookWhatIsDue_congr a.sched a.slots (ends.tookWhatIsDue lands.sound (lands.due running forward)),
      .inr ⟨crossed, last, a.wall.trans ends.wall, (congrArg Sched.wallDue a.sched).trans ends.wallDue,
        (congrArg Sched.patterns a.sched).trans ends.patterns, ?_, ?_⟩⟩
    · exact congrArg (fun u : CmdUnit => { u with state := .idle }) ((a.cmd.trans ends.cmd).trans (by rw [lands.cmd]))
    · refine a.reservations.trans ?_
      rw [reservations, lands.reservations, lands.rangeEnded_length, changeAnswers_length, Nat.sub_right_comm]

/-! ### The good edge -/

/-- A snap rounds to whole seconds, so that it never lands on the last FU of the range (R69, R81). -/
theorem round_ne_wallLast (u : SnapUnit) (wall : Nat) : u.round wall ≠ Config.wallLast := by
  cases u <;> simp only [SnapUnit.round, SnapUnit.length, Config.wallLast, Config.secondFU, Config.minuteFU] <;> omega

theorem clampTrim_eq (t : Int) :
    clampTrim t = if t < -262144 then -262144 else if 262144 < t then 262144 else t := by
  unfold clampTrim
  simp only [Config.trimMax]
  split
  · omega
  · split <;> omega

/-- The timebase after a good edge in LOCKED, `x` having been expected (R60). -/
def Timebase.corrected (t : Timebase) (x : Nat) : Timebase :=
  let e := (t.mono : Int) - (x : Int)
  { t with
    trim := if t.trim + 16 * e < -262144 then -262144 else if 262144 < t.trim + 16 * e then 262144 else t.trim + 16 * e
    disc := { t.disc with lastError := e, expect := some (t.mono + 2 ^ 20), miss := 0 } }

/-- A good edge taken in LOCKED corrects the timebase and is offered to the wall clock (R60, R84). -/
theorem exec_refEdge_locked {s : State} {x : Nat} (locked : s.time.disc.state = .locked)
    (expected : s.time.disc.expect = some x) (early : x ≤ s.time.mono + s.time.disc.window)
    (late : s.time.mono ≤ x + s.time.disc.window) :
    exec .refEdge s = .next (s.writeStarted (applySnap (s.setTime (s.time.corrected x)))) := by
  have within : s.time.disc.within x s.time.mono = true := by simp [Discipline.within, early, late]
  have edge : s.time.edge = (s.time.corrected x, true) := by
    rw [Timebase.edge, locked]
    dsimp only
    rw [expected]
    dsimp only
    rw [within, if_pos rfl, clampTrim_eq]
    rfl
  have unreported : offerReference (s.setTime (s.time.corrected x)) s.time.disc.state = s.setTime (s.time.corrected x) :=
    if_pos rfl
  show execRefEdge s = _
  rw [execRefEdge, edge]
  dsimp only
  rw [unreported, if_pos rfl, writeOnAcceptance_eq]

section
variable {s : State} {n : Snap} {d : Deferred} (pending : s.wall.snap = some n) (deferred : s.cmd.snap = some d)
include pending deferred

/-- A snap that would round beyond the range is answered BAD_FIELD and leaves the clock as it was (R81, R84). -/
theorem applySnap_beyond (beyond : Config.wallLast < n.unit.round s.wallNow) : applySnap s =
    { s with
      wall := { s.wall with snap := none }
      cmd := { s.cmd with snap := none }
      reports := { s.reports with
        records := s.reports.records ++ [.completion (d.completion opSnap .badField (some 1) .noChange)]
        reservations := s.reports.reservations - 1 } } := by
  have own : s.snapEnds .badField (some 1) .noChange = [d.completion opSnap .badField (some 1) .noChange] := by
    simp [State.snapEnds, pending, deferred]
  rw [applySnap, pending]
  dsimp only
  rw [if_neg (not_le.mpr beyond), own]
  exact acceptCompletion_quiet s.queued s.dropSnap _ rfl

/-- A snap applied within the range is a wall change, answered with the change (R73, R84). -/
theorem applySnap_within (within : n.unit.round s.wallNow ≤ Config.wallLast) : applySnap s =
    acceptAll s.queued (wallChange s.dropSnap (n.unit.round s.wallNow)).1 (s.changeAnswers
      (d.completion opSnap .ok none (.wallChanged (n.unit.round s.wallNow)
        (some ((n.unit.round s.wallNow : Int) - (s.wallNow : Int)))))) := by
  rw [applySnap, pending]
  dsimp only
  rw [if_pos within]
  simp only [State.snapEnds, pending, deferred]
  rfl

end

/-- Settles O41: the snap beyond the range answered alone, and within it a wall change answered with the snap. -/
theorem goodEdgeAppliesThePendingSnap : Obligations.GoodEdgeAppliesThePendingSnap := by
  intro s x n d locked expected early late pending deferred set sound e time rounded answer
  have edge := exec_refEdge_locked locked expected early late
  refine ⟨fun beyond => ?_, fun within => ?_⟩
  · rw [edge, applySnap_beyond (s := s.setTime (s.time.corrected x)) pending deferred beyond]
    rfl
  · intro landing
    obtain ⟨own, ownEq⟩ : ∃ own, own = d.completion opSnap .ok none (.wallChanged rounded
      (some ((rounded : Int) - (s.wallNow : Int)))) := ⟨_, rfl⟩
    have applied : exec .refEdge s = .next (s.writeStarted (acceptAll s.queued
        (wallChange (s.setTime (s.time.corrected x)).dropSnap rounded).1 (s.changeAnswers own))) := by
      rw [edge, applySnap_within (s := s.setTime (s.time.corrected x)) pending deferred within, ownEq]
      rfl
    have ready : (s.setTime (s.time.corrected x)).dropSnap.CollectionsSound := sound.quiet (.of_eq rfl rfl id)
    rcases wallChange_cases ready set rounded with ⟨lands, matched⟩ | ⟨-, last, -⟩
    · have a := acceptAll_acceptsFrom s.queued (s.changeAnswers own) _ lands.queued
      have wall := a.wall.trans lands.wall
      refine ⟨_, applied, a.time.trans lands.time, a.port.trans lands.port, a.caps.trans lands.caps,
        (congrArg Sched.state a.sched).trans lands.state, a.write.trans lands.write,
        wallNow_of_offset (a.time.trans lands.time) (congrArg Wall.offset wall), wall, a.cmd.trans lands.cmd,
        ownEq ▸ a.mem (own_mem_changeAnswers _ _), fun w b slew adjust => a.mem (superseded_mem_changeAnswers slew adjust _),
        a.reservations.trans (by rw [lands.reservations, changeAnswers_length]; rfl),
        fun running forward => tookWhatIsDue_congr a.sched a.slots (lands.due running forward),
        fun running unfound crossed => tookMatches_congr a.slots (matched running unfound crossed), fun still => ?_⟩
      obtain ⟨slots, sched, chans⟩ := lands.still still
      exact ⟨a.slots.trans slots, a.sched.trans sched, a.chans.trans chans⟩
    · exact absurd last (round_ne_wallLast _ _)

end Sys2Proof.Machine
end

section
/-! SUPPORT. What a command can do to the timebase, said once: it leaves it and the queue of commands alone, or makes one of six
steps (R53 to R65). Mono time and the ranges of the timebase are then read off the steps. -/

namespace Sys2Proof.Machine

/-! ### Operations that leave the timebase alone -/

/-- The timebase and the queue of commands are as they were. -/
structure State.SameTime (s t : State) : Prop where
  time : t.time = s.time
  pending : t.pending = s.pending

theorem State.SameTime.refl (s : State) : s.SameTime s := ⟨rfl, rfl⟩

theorem State.SameTime.trans {s t u : State} (h : s.SameTime t) (k : t.SameTime u) : s.SameTime u :=
  ⟨k.time.trans h.time, k.pending.trans h.pending⟩

/-- A change of other blocks comes first; the later step stands first, since it names the state between. -/
theorem State.SameTime.after {s t u : State} (k : t.SameTime u) (h : s.SameTime t) : s.SameTime u := h.trans k

theorem State.SchedulesFrom.sameTime {s t : State} (h : s.SchedulesFrom t) : s.SameTime t := ⟨h.time, h.pending⟩

theorem State.OffersFrom.sameTime {s t : State} (h : s.OffersFrom t) : s.SameTime t := ⟨h.time, h.pending⟩

theorem acceptAll_sameTime (base : Nat) (cs : List Completion) (s : State) : s.SameTime (acceptAll base s cs) := by
  induction cs generalizing s with
  | nil => exact .refl s
  | cons c cs ih => exact (ih (acceptCompletion base s c)).after ⟨rfl, rfl⟩

theorem writeOnAcceptance_sameTime (n : Nat) (s : State) : s.SameTime (writeOnAcceptance n s) := ⟨rfl, rfl⟩

theorem finish_sameTime (base : Nat) (c : InHand) (a : Answer) : a.state.SameTime (finish base c a) :=
  (acceptAll_sameTime base _ a.state).trans ⟨rfl, rfl⟩

theorem halt_sameTime (s : State) (code : FaultCode) (address : Word) : s.SameTime (halt s code address) := by
  unfold halt
  split <;> exact ⟨rfl, rfl⟩

theorem checkDrain_sameTime (s : State) : s.SameTime (checkDrain s) := by
  unfold checkDrain
  split <;> exact ⟨rfl, rfl⟩

theorem offerDones_sameTime (s : State) (ds : List DoneReport) : s.SameTime (offerDones s ds) :=
  (offerDones_offersFrom s ds).sameTime

theorem offerReference_offersFrom (s : State) (old : DiscState) : s.OffersFrom (offerReference s old) := by
  unfold offerReference
  dsimp only
  split
  · exact .refl s
  · exact offer_offersFrom s _ rfl

/-! ### The wall clock's operations -/

theorem rangeEnd_sameTime (s : State) : s.SameTime (rangeEnd s) := by
  have removed := (unwalled_schedulesFrom s).sameTime
  have unwalled : s.SameTime s.unwalled := ⟨removed.time, removed.pending⟩
  exact (unwalled.trans (unwalled_offersFrom s).sameTime).trans (acceptAll_sameTime _ _ _)

theorem wallChange_sameTime (s : State) (new : Nat) : s.SameTime (wallChange s new).1 := by
  have scheduled : ∀ (u : State) (forward : Bool) (landing : Option Nat), s.SameTime u →
      s.SameTime (changeSchedule u forward landing) :=
    fun u forward landing same => same.trans (changeSchedule_schedulesFrom u forward landing).sameTime
  unfold wallChange
  dsimp only
  split
  · exact ⟨rfl, rfl⟩
  split
  · exact scheduled _ _ _ ⟨rfl, rfl⟩
  split
  · split
    · exact (rangeEnd_sameTime _).after (scheduled _ _ _ ⟨rfl, rfl⟩)
    · exact scheduled _ _ _ ⟨rfl, rfl⟩
  · exact scheduled _ _ _ ⟨rfl, rfl⟩

theorem applySnap_sameTime (s : State) : s.SameTime (applySnap s) := by
  have dropped : s.SameTime s.dropSnap := ⟨rfl, rfl⟩
  unfold applySnap
  split
  · exact .refl s
  · dsimp only
    split
    · exact (dropped.trans (wallChange_sameTime _ _)).trans (acceptAll_sameTime _ _ _)
    · exact dropped.trans (acceptAll_sameTime _ _ _)

/-! ### The commands of the ring -/

/-- A carry-out leaves the timebase as its owner does. -/
theorem carryOut_sameTime {opcode : Byte} {s : State} {owner : InHand → State → Answer}
    (own : ∀ c, s.SameTime (owner c s).state) : s.SameTime (carryOut opcode s owner) := by
  unfold carryOut
  split
  · split
    · exact (own _).trans (finish_sameTime _ _ _)
    · exact .refl s
  · exact .refl s

theorem execBadOpcode_sameTime {s t : State} (e : execBadOpcode s = .next t) : s.SameTime t := by
  cases e
  split
  · split
    · exact finish_sameTime _ _ (refuseWith s _ _)
    · exact .refl s
  · exact .refl s

theorem execDefineAction_sameTime {s t : State} (e : execDefineAction s = .next t) : s.SameTime t := by
  cases e
  split
  · split
    · split
      · exact finish_sameTime _ _ (refuseWith s _ _)
      · exact ⟨rfl, rfl⟩
    · exact .refl s
  · exact .refl s

theorem defineFrom_sameTime (s : State) (d : Descriptor) : s.SameTime (defineFrom s d).state := by
  unfold defineFrom
  split
  · exact .refl s
  · split <;> exact ⟨rfl, rfl⟩

theorem execDescriptorReadEnd_sameTime {ending : BusEnd 512} {s t : State} (e : execDescriptorReadEnd ending s = .next t) :
    s.SameTime t := by
  cases e
  split
  · cases ending with
    | error => exact finish_sameTime _ _ (refuseWith s _ _)
    | data d => exact (defineFrom_sameTime s d).trans (finish_sameTime _ _ _)
  · exact .refl s

theorem armOwner_sameTime (c : InHand) (s : State) : s.SameTime (armOwner c s).state := by
  unfold armOwner
  dsimp only
  split
  · exact .refl s
  split
  · exact .refl s
  split
  · exact .refl s
  · exact (armSlot_schedulesFrom s _ _ _).sameTime

theorem withdrawFrom_sameTime (s : State) (h : Handle) (output : Option Output) (option : Withdraw) :
    s.SameTime (withdrawFrom s h output option).1 := by
  unfold withdrawFrom
  split
  · exact (offerDones_sameTime _ _).after ⟨rfl, rfl⟩
  · exact (offerDones_sameTime _ _).after ⟨rfl, rfl⟩
  · exact .refl s

theorem disarmOwner_sameTime (c : InHand) (s : State) : s.SameTime (disarmOwner c s).state := by
  unfold disarmOwner
  dsimp only
  split
  · exact .refl s
  · next x _ =>
    split
    · exact .refl s
    · exact (idle_schedulesFrom s _ x).sameTime.trans (withdrawFrom_sameTime _ _ _ _)

theorem releaseOwner_sameTime (c : InHand) (s : State) : s.SameTime (releaseOwner c s).state := by
  unfold releaseOwner
  dsimp only
  split
  · exact .refl s
  · split <;> exact ⟨rfl, rfl⟩

theorem suspendOwner_sameTime (c : InHand) (s : State) : s.SameTime (suspendOwner c s).state := by
  unfold suspendOwner
  split <;> exact ⟨rfl, rfl⟩

theorem resumeOwner_sameTime (c : InHand) (s : State) : s.SameTime (resumeOwner c s).state := by
  unfold resumeOwner
  split
  · exact (resumed_schedulesFrom s).sameTime.after ⟨rfl, rfl⟩
  · exact .refl s

theorem setTimeOwner_sameTime (c : InHand) (s : State) : s.SameTime (setTimeOwner c s).state := by
  unfold setTimeOwner
  split
  · exact .refl s
  · exact wallChange_sameTime s _

theorem stepTimeOwner_sameTime (c : InHand) (s : State) : s.SameTime (stepTimeOwner c s).state := by
  unfold stepTimeOwner
  split
  · exact .refl s
  · split
    · exact .refl s
    · exact wallChange_sameTime s _

theorem adjustTimeOwner_sameTime (c : InHand) (s : State) : s.SameTime (adjustTimeOwner c s).state := by
  unfold adjustTimeOwner
  dsimp only
  split_ifs <;> exact ⟨rfl, rfl⟩

theorem snapTimeOwner_sameTime (c : InHand) (s : State) : s.SameTime (snapTimeOwner c s).state := by
  unfold snapTimeOwner
  split
  · exact .refl s
  · unfold snapNow
    dsimp only
    split
    · exact .refl s
    split
    · exact .refl s
    · exact wallChange_sameTime s _
  · unfold snapNextRef
    split_ifs <;> exact ⟨rfl, rfl⟩

theorem configChannelOwner_sameTime (c : InHand) (s : State) : s.SameTime (configChannelOwner c s).state := by
  unfold configChannelOwner
  split
  · exact .refl s
  · exact (offerDones_sameTime _ _).after ⟨rfl, rfl⟩

theorem flushChannelOwner_sameTime (c : InHand) (s : State) : s.SameTime (flushChannelOwner c s).state := by
  unfold flushChannelOwner
  split
  · exact .refl s
  · exact (offerDones_sameTime _ _).after ⟨rfl, rfl⟩

theorem configCaptureOwner_sameTime (c : InHand) (s : State) : s.SameTime (configCaptureOwner c s).state := by
  unfold configCaptureOwner
  split <;> exact ⟨rfl, rfl⟩

/-! ### The port -/

theorem execFetchEnd_sameTime {ending : BusEnd 256} {s t : State} (e : execFetchEnd ending s = .next t) :
    s.SameTime t := by
  cases e
  split
  · exact .refl s
  split
  · cases ending with
    | data r => exact ⟨rfl, rfl⟩
    | error => exact halt_sameTime s _ _
  · exact (checkDrain_sameTime _).after ⟨rfl, rfl⟩

theorem execReportWriteEnd_sameTime {busError : Bool} {s t : State} (e : execReportWriteEnd busError s = .next t) :
    s.SameTime t := by
  cases e
  split
  · exact .refl s
  split
  · exact halt_sameTime s _ _
  · exact (checkDrain_sameTime _).after ⟨rfl, rfl⟩

theorem writeEnable1_sameTime (s : State) : s.SameTime (writeEnable1 s) := by
  unfold writeEnable1
  split
  · split
    · dsimp only
      split
      · exact (halt_sameTime _ _ _).after ⟨rfl, rfl⟩
      · exact ⟨rfl, rfl⟩
    · exact ⟨rfl, rfl⟩
  · exact .refl s

theorem writeEnable0_sameTime (s : State) : s.SameTime (writeEnable0 s) := by
  unfold writeEnable0
  split
  · exact (checkDrain_sameTime _).after ((writeOnAcceptance_sameTime _ _).after ((acceptAll_sameTime _ _ _).after ⟨rfl, rfl⟩))
  · exact .refl s

theorem writeCrTail_sameTime (s : State) (v : Word) : s.SameTime (writeCrTail s v) := by
  unfold writeCrTail
  split
  · split
    · exact ⟨rfl, rfl⟩
    · exact halt_sameTime s _ _
  · exact .refl s

theorem writeRrHead_sameTime (s : State) (v : Word) : s.SameTime (writeRrHead s v) := by
  unfold writeRrHead
  dsimp only
  split
  · split
    · exact ⟨rfl, rfl⟩
    · exact halt_sameTime s _ _
  · exact .refl s

theorem storeRing_sameTime (s : State) (p : Port) : s.SameTime (storeRing s p) := by
  unfold storeRing
  split <;> exact ⟨rfl, rfl⟩

theorem writeRegister_sameTime (s : State) (r : Reg) (v : Word) : s.SameTime (writeRegister s r v) := by
  cases r with
  | devId | devRev | status | faultCode | faultAddr | crHead | rrTail => exact .refl s
  | crBase | crSize | rrBase | rrSize => exact storeRing_sameTime s _
  | control =>
    unfold writeRegister
    dsimp only
    split
    · exact ⟨rfl, rfl⟩
    split
    · exact writeEnable1_sameTime s
    · exact writeEnable0_sameTime s
  | crTail => exact writeCrTail_sameTime s v
  | rrHead => exact writeRrHead_sameTime s v
  | intStatus | intEnable | intModeration => exact ⟨rfl, rfl⟩

theorem execRegisterWrite_sameTime {offset : Nat} {value : Word} {s t : State}
    (e : execRegisterWrite offset value s = .next t) : s.SameTime t := by
  unfold execRegisterWrite at e
  split at e
  · cases e
    exact writeRegister_sameTime s _ value
  · cases e

/-! ### The inputs, the scheduler and the wall clock -/

theorem acceptedEdge_sameTime (s : State) (k : Fin 4) (instant : Nat) (p : Polarity) :
    s.SameTime (acceptedEdge s k instant p) := by
  unfold acceptedEdge
  dsimp only
  split <;> split
  · exact (offer_offersFrom _ _ rfl).sameTime.after ⟨rfl, rfl⟩
  · exact ⟨rfl, rfl⟩
  · exact (convert_schedulesFrom _ _ _).sameTime.after ((offer_offersFrom _ _ rfl).sameTime.after ⟨rfl, rfl⟩)
  · exact (convert_schedulesFrom _ _ _).sameTime.after ⟨rfl, rfl⟩

theorem acceptCandidate_sameTime (s : State) (k : Fin 4) (x : Candidate) : s.SameTime (acceptCandidate s k x) := by
  unfold acceptCandidate
  dsimp only
  split
  · exact (acceptedEdge_sameTime _ _ _ _).after ⟨rfl, rfl⟩
  · exact ⟨rfl, rfl⟩

theorem execTransition_sameTime {k : Fin 4} {s t : State} (e : execTransition k s = .next t) : s.SameTime t := by
  cases e
  dsimp only
  split_ifs
  · exact .refl s
  · exact ⟨rfl, rfl⟩
  · exact ⟨rfl, rfl⟩
  · exact ⟨rfl, rfl⟩
  · exact (writeOnAcceptance_sameTime _ _).after ((acceptCandidate_sameTime _ _ _).after ⟨rfl, rfl⟩)
  · exact ⟨rfl, rfl⟩

theorem execAcceptance_sameTime {k : Fin 4} {s t : State} (e : execAcceptance k s = .next t) : s.SameTime t := by
  cases e
  split
  · split
    · exact (acceptCandidate_sameTime s k _).trans ⟨rfl, rfl⟩
    · exact .refl s
  · exact .refl s

theorem execExpiry_sameTime {s t : State} (e : execExpiry s = .next t) : s.SameTime t := by
  cases e
  split
  · split
    · split
      · exact (takeEntry_schedulesFrom s _).sameTime.trans ⟨rfl, rfl⟩
      · exact .refl s
    · split
      · exact (takeMatch_schedulesFrom s _).sameTime.trans ⟨rfl, rfl⟩
      · exact .refl s
    · exact .refl s
  · exact .refl s

theorem execRunningSecondBoundary_sameTime {s t : State} (e : execRunningSecondBoundary s = .next t) : s.SameTime t := by
  cases e
  split
  · exact (offerSecond_schedulesFrom _ _).sameTime.after ⟨rfl, rfl⟩
  · exact .refl s

theorem execSlewStep_sameTime {s t : State} (e : execSlewStep s = .next t) : s.SameTime t := by
  cases e
  split
  · split
    · dsimp only
      split
      · exact (writeOnAcceptance_sameTime _ _).after ((acceptAll_sameTime _ _ _).after ⟨rfl, rfl⟩)
      · exact ⟨rfl, rfl⟩
    · exact .refl s
  · exact .refl s

theorem execWaitEnd_sameTime {s t : State} (e : execWaitEnd s = .next t) : s.SameTime t := by
  cases e
  split
  · exact (writeOnAcceptance_sameTime _ _).after ((acceptAll_sameTime _ _ _).after ⟨rfl, rfl⟩)
  · exact .refl s

theorem execRangeEnd_sameTime {s t : State} (e : execRangeEnd s = .next t) : s.SameTime t := by
  cases e
  split
  · exact (rangeEnd_sameTime s).trans ⟨rfl, rfl⟩
  · exact .refl s

theorem completeRunning_sameTime (s : State) (ch : Fin 8) (r : Running) : s.SameTime (completeRunning s ch r) :=
  ((followOf_schedulesFrom s r.inst s.mono).sameTime.trans (offerDones_sameTime _ _)).trans ⟨rfl, rfl⟩

theorem execPhaseEnd_sameTime {ch : Fin 8} {s t : State} (e : execPhaseEnd ch s = .next t) : s.SameTime t := by
  cases e
  split
  · split
    · exact ⟨rfl, rfl⟩
    · exact (completeRunning_sameTime s ch _).trans ⟨rfl, rfl⟩
    · exact .refl s
  · exact .refl s

theorem execModerationExpiry_sameTime {s t : State} (e : execModerationExpiry s = .next t) : s.SameTime t := by
  cases e
  split <;> exact ⟨rfl, rfl⟩

/-! ### The steps of the timebase -/

/-- What a command can make of the timebase (R53 to R57, R64, R65, R67). -/
inductive Timebase.Step : Instr → Timebase → Timebase → Prop where
  | kept (c : Instr) (t : Timebase) : Step c t t
  | reset (lines : Vector Level 4) (t : Timebase) : Step (.powerOnReset lines) t .reset
  | configured (t : Timebase) {r : Record} {f : ReferenceFields} (valid : referenceFieldsOf r = .ok f) :
      Step .configReference t (t.configure f)
  | edge (t : Timebase) : Step .refEdge t t.edge.1
  | closed (t : Timebase) : Step .windowClose t { t with disc := t.disc.close t.mono }
  | exhausted {t : Timebase} (last : t.mono = Config.monoLast) : Step .monoExhaustion t { t with exhausted := true }
  | ticked {t : Timebase} (on : t.exhausted = false) (before : t.mono < Config.monoLast) : Step .fineUnit t t.tick

/-- A command leaves the queue of commands alone, and the timebase makes one of its steps. -/
structure State.TimeSteps (c : Instr) (s t : State) : Prop where
  pending : t.pending = s.pending
  time : s.time.Step c t.time

theorem State.SameTime.steps {c : Instr} {s t : State} (h : s.SameTime t) : State.TimeSteps c s t :=
  ⟨h.pending, h.time ▸ .kept c s.time⟩

/-- A command whose outcome is a state named outright. -/
theorem State.SameTime.of_next {c : Instr} {s t u : State} (h : s.SameTime u) (e : (.next u : Next) = .next t) :
    State.TimeSteps c s t := by
  cases e
  exact h.steps

theorem configReference_steps {s t : State} (e : execConfigReference s = .next t) :
    State.TimeSteps .configReference s t := by
  cases e
  unfold carryOut
  split
  · split
    · next c _ _ =>
      unfold configReferenceOwner
      split
      · exact (finish_sameTime _ c (badField s _ _)).steps
      · next f valid =>
        have told := (offerReference_offersFrom (s.dropSnap.setTime (s.time.configure f)) s.time.disc.state).sameTime
        have done := told.trans (finish_sameTime s.queued c
          { state := offerReference (s.dropSnap.setTime (s.time.configure f)) s.time.disc.state
            reply := .now .ok none (.reference s.time.disc.state (s.time.configure f).disc.state (s.time.configure f).trim)
            ended := s.snapEnds .cancelled none .noChange })
        exact ⟨done.pending, done.time ▸ .configured s.time valid⟩
    · exact (State.SameTime.refl s).steps
  · exact (State.SameTime.refl s).steps

theorem refEdge_steps {s t : State} (e : execRefEdge s = .next t) : State.TimeSteps .refEdge s t := by
  cases e
  have judged := (offerReference_offersFrom (s.setTime s.time.edge.1) s.time.disc.state).sameTime
  have snapped : ∀ offered : Bool, (s.setTime s.time.edge.1).SameTime (if offered then
      applySnap (offerReference (s.setTime s.time.edge.1) s.time.disc.state)
      else offerReference (s.setTime s.time.edge.1) s.time.disc.state) := by
    rintro (_ | _)
    · exact judged
    · exact judged.trans (applySnap_sameTime _)
  have done := snapped s.time.edge.2
  exact ⟨done.pending, done.time.symm ▸ .edge s.time⟩

theorem windowClose_steps {s t : State} (e : execWindowClose s = .next t) : State.TimeSteps .windowClose s t := by
  cases e
  split
  · have told := (offerReference_offersFrom (s.setTime { s.time with disc := s.time.disc.close s.mono })
      s.time.disc.state).sameTime
    exact ⟨told.pending, told.time.symm ▸ .closed s.time⟩
  · exact (State.SameTime.refl s).steps

theorem monoExhaustion_steps {s t : State} (e : execMonoExhaustion s = .next t) : State.TimeSteps .monoExhaustion s t := by
  cases e
  split
  · next last =>
    have halted := halt_sameTime (s.setTime { s.time with exhausted := true }) .timelineEnd 0
    exact ⟨halted.pending, halted.time.symm ▸ .exhausted last.1⟩
  · exact (State.SameTime.refl s).steps

/-- No fine unit is taken at the last instant (R55). -/
theorem mono_lt_of_outstanding {s : State} (none : s.outstanding = false) : s.time.mono < Config.monoLast := by
  simp only [State.outstanding, Bool.or_eq_false_iff, decide_eq_false_iff_not] at none
  exact not_le.mp none.2

theorem fineUnit_steps {s t : State} (e : execFineUnit s = .next t) : State.TimeSteps .fineUnit s t := by
  cases e
  split
  · exact (State.SameTime.refl s).steps
  · next free =>
    rw [Bool.or_eq_true, not_or, Bool.not_eq_true, Bool.not_eq_true] at free
    exact ⟨rfl, .ticked free.1 (mono_lt_of_outstanding free.2)⟩

/-- An edge does not move mono time. -/
theorem Timebase.edge_mono (t : Timebase) : t.edge.1.mono = t.mono := by
  unfold Timebase.edge
  split
  · rfl
  · rfl
  · rfl
  · split
    · split <;> rfl
    · rfl

theorem Timebase.startUnit_mono (t : Timebase) : t.startUnit.mono = t.mono := by
  unfold Timebase.startUnit
  dsimp only
  split_ifs <;> rfl

/-- A fine unit moves mono time by one (R54). -/
theorem Timebase.tick_mono (t : Timebase) : t.tick.mono = t.mono + 1 := by
  unfold Timebase.tick
  dsimp only
  split
  · exact Timebase.startUnit_mono _
  · rfl

/-- What any command does to the timebase and the queue of commands. -/
theorem exec_timeSteps {c : Instr} {s t : State} (e : exec c s = .next t) : State.TimeSteps c s t := by
  cases c with
  | nop | readTime => exact (carryOut_sameTime fun _ => .refl s).of_next e
  | badOpcode => exact (execBadOpcode_sameTime e).steps
  | defineAction => exact (execDefineAction_sameTime e).steps
  | descriptorReadEnd ending => exact (execDescriptorReadEnd_sameTime e).steps
  | arm => exact (carryOut_sameTime fun c => armOwner_sameTime c s).of_next e
  | disarm => exact (carryOut_sameTime fun c => disarmOwner_sameTime c s).of_next e
  | release => exact (carryOut_sameTime fun c => releaseOwner_sameTime c s).of_next e
  | queryAction => exact (carryOut_sameTime fun c => by rw [queryOwner_state]; exact .refl s).of_next e
  | suspend => exact (carryOut_sameTime fun c => suspendOwner_sameTime c s).of_next e
  | resume => exact (carryOut_sameTime fun c => resumeOwner_sameTime c s).of_next e
  | setTime => exact (carryOut_sameTime fun c => setTimeOwner_sameTime c s).of_next e
  | stepTime => exact (carryOut_sameTime fun c => stepTimeOwner_sameTime c s).of_next e
  | adjustTime => exact (carryOut_sameTime fun c => adjustTimeOwner_sameTime c s).of_next e
  | snapTime => exact (carryOut_sameTime fun c => snapTimeOwner_sameTime c s).of_next e
  | configReference => exact configReference_steps e
  | configChannel => exact (carryOut_sameTime fun c => configChannelOwner_sameTime c s).of_next e
  | flushChannel => exact (carryOut_sameTime fun c => flushChannelOwner_sameTime c s).of_next e
  | channelStatus => exact (carryOut_sameTime fun c => by rw [channelStatusOwner_state]; exact .refl s).of_next e
  | configCapture => exact (carryOut_sameTime fun c => configCaptureOwner_sameTime c s).of_next e
  | captureStatus => exact (carryOut_sameTime fun c => by rw [captureStatusOwner_state]; exact .refl s).of_next e
  | fetchStart | reportWriteStart | softReset => cases e; exact ⟨rfl, .kept _ _⟩
  | intStatusWrite | intEnableWrite | intModerationWrite => cases e; exact ⟨rfl, .kept _ _⟩
  | fetchEnd ending => exact (execFetchEnd_sameTime e).steps
  | reportWriteEnd busError => exact (execReportWriteEnd_sameTime e).steps
  | enableWrite1 => exact (writeEnable1_sameTime s).of_next e
  | enableWrite0 => exact (writeEnable0_sameTime s).of_next e
  | crTailWrite value => exact (writeCrTail_sameTime s value).of_next e
  | rrHeadWrite value => exact (writeRrHead_sameTime s value).of_next e
  | registerWrite offset value => exact (execRegisterWrite_sameTime e).steps
  | powerOnReset lines => cases e; exact ⟨rfl, .reset lines s.time⟩
  | refEdge => exact refEdge_steps e
  | windowClose => exact windowClose_steps e
  | transition input => exact (execTransition_sameTime e).steps
  | acceptance input => exact (execAcceptance_sameTime e).steps
  | expiry => exact (execExpiry_sameTime e).steps
  | runningSecondBoundary => exact (execRunningSecondBoundary_sameTime e).steps
  | slewStep => exact (execSlewStep_sameTime e).steps
  | waitEnd => exact (execWaitEnd_sameTime e).steps
  | rangeEnd => exact (execRangeEnd_sameTime e).steps
  | phaseEnd channel => exact (execPhaseEnd_sameTime e).steps
  | moderationExpiry => exact (execModerationExpiry_sameTime e).steps
  | monoExhaustion => exact monoExhaustion_steps e
  | fineUnit => exact fineUnit_steps e

/-- Settles O4: no step of the timebase but a fine unit and a reset moves mono time. -/
theorem monoRisesByFineUnitsAlone : Obligations.MonoRisesByFineUnitsAlone := by
  intro c s t e
  obtain ⟨pending, step⟩ := exec_timeSteps e
  refine ⟨pending, ?_⟩
  generalize s.time = before, t.time = after at step ⊢
  cases step with
  | kept | configured | closed | exhausted => exact .inl rfl
  | edge => exact .inl before.edge_mono
  | ticked => exact .inr (.inl ⟨rfl, before.tick_mono⟩)
  | reset lines => exact .inr (.inr ⟨lines, rfl, rfl⟩)

end Sys2Proof.Machine
end

section
/-! SUPPORT. Every step of the timebase keeps it in its ranges (R53 to R61, R64, R65, table 3.1). -/

namespace Sys2Proof.Machine

/-! ### The discipline -/

/-- The judging of the lock count brings a record that has taken an edge back into its ranges, its good count having perhaps
reached the lock count (R59, R61). -/
theorem Discipline.Sound.lockIfReached {d : Discipline} {edge good : Nat} {e : Int} (sound : d.Sound)
    (seeks : d.state = .acquire ∨ d.state = .holdover) (counted : good ≤ 15) (error : -65535 ≤ e ∧ e ≤ 65535) :
    { d with good := good, lastError := e, expect := some edge }.lockIfReached.Sound := by
  obtain ⟨limitLow, -⟩ := sound.missLimit
  unfold Discipline.lockIfReached
  split
  · exact { sound with
      good := counted
      seeking := fun h => by rcases h with h | h <;> cases h
      miss := Nat.zero_le _
      locked := fun _ => ⟨limitLow, rfl⟩
      lastError := error
      off := fun h => by cases h }
  · next few =>
    exact { sound with
      good := counted
      seeking := fun _ => not_le.mp few
      locked := fun h => by rcases seeks with k | k <;> simp [k] at h
      lastError := error
      off := fun h => by rcases seeks with k | k <;> simp [k] at h }

/-- The error of an edge in the window fits the range of table 3.1 (R57, R64). -/
theorem Discipline.Sound.error {d : Discipline} {x edge : Nat} (sound : d.Sound) (within : d.within x edge = true) :
    -65535 ≤ (edge : Int) - (x : Int) ∧ (edge : Int) - (x : Int) ≤ 65535 := by
  obtain ⟨-, wide⟩ := sound.window
  simp only [Discipline.within, Bool.and_eq_true, decide_eq_true_eq] at within
  omega

theorem Discipline.Sound.seekEdge {d : Discipline} (sound : d.Sound) (seeks : d.state = .acquire ∨ d.state = .holdover)
    (edge : Nat) : (d.seekEdge edge).Sound := by
  have few := sound.seeking seeks
  obtain ⟨-, locks⟩ := sound.lockCount
  unfold Discipline.seekEdge
  dsimp only
  split
  · exact sound
  split
  · split
    · next within => exact sound.lockIfReached seeks (by omega) (sound.error within)
    · exact sound.lockIfReached seeks (by decide) sound.lastError
  · exact sound.lockIfReached seeks (by decide) sound.lastError

theorem Discipline.Sound.close {d : Discipline} (sound : d.Sound) (now : Nat) : (d.close now).Sound := by
  obtain ⟨locks, -⟩ := sound.lockCount
  unfold Discipline.close
  split
  · exact sound
  · next state =>
    exact { sound with
      good := Nat.zero_le _
      seeking := fun _ => locks
      locked := fun h => by simp [state] at h
      off := fun _ => rfl }
  · next state =>
    obtain ⟨few, expected⟩ := sound.locked state
    dsimp only
    split
    · exact { sound with
        good := Nat.zero_le _
        seeking := fun _ => locks
        miss := few
        locked := fun h => by cases h
        off := fun h => by cases h }
    · next below =>
      exact { sound with
        seeking := fun h => by rcases h with h | h <;> simp [state] at h
        miss := few
        locked := fun _ => ⟨not_le.mp below, by simpa using expected⟩
        off := fun h => by simp [state] at h }
  · next state =>
    exact { sound with
      good := Nat.zero_le _
      seeking := fun _ => locks
      locked := fun h => by simp [state] at h
      off := fun h => by simp [state] at h }

/-! ### The fields of CONFIG_REFERENCE -/

theorem flagOf_eq (n : Nat) : flagOf n = if 1 < n then none else some (decide (n = 1)) := by
  unfold flagOf
  split
  · rfl
  · rfl
  · next zero one =>
    have large : 1 < n := by
      by_contra small
      obtain rfl | rfl : n = 0 ∨ n = 1 := by omega
      · exact zero rfl
      · exact one rfl
    rw [if_pos large]

/-- The fields as a CONFIG_REFERENCE record gives them, whatever their values (tables 3.3 and 11.3). -/
def referenceFields (r : Record) : ReferenceFields where
  on := decide ((byteAt r 4).toNat = 1)
  window := (le16 r 6).toNat
  lockCount := (byteAt r 8).toNat
  missLimit := (byteAt r 9).toNat
  trim := if le32 r 12 = 0x80000000 then none else some (le32 r 12).toInt

/-- The fields of CONFIG_REFERENCE, checked in their order (R64, table 3.3). -/
theorem referenceFieldsOf_eq (r : Record) : referenceFieldsOf r =
    if 1 < (byteAt r 4).toNat then .error 1
    else if (le16 r 6).toNat < 16 then .error 2
    else if (byteAt r 8).toNat = 0 ∨ 15 < (byteAt r 8).toNat then .error 3
    else if (byteAt r 9).toNat = 0 ∨ 15 < (byteAt r 9).toNat then .error 4
    else if ¬ le32 r 12 = 0x80000000 ∧ ((le32 r 12).toInt < -262144 ∨ 262144 < (le32 r 12).toInt) then .error 5
    else .ok (referenceFields r) := by
  unfold referenceFieldsOf referenceFields
  rw [flagOf_eq]
  by_cases mode : 1 < (byteAt r 4).toNat
  · simp only [if_pos mode]
  · simp only [if_neg mode, Nat.lt_one_iff, Config.trimMax, Bool.and_eq_true, Bool.or_eq_true, Bool.not_eq_true',
      beq_eq_false_iff_ne, beq_iff_eq, decide_eq_true_eq, ne_eq]

/-- The fields of a valid CONFIG_REFERENCE lie in their ranges (R64, table 3.3). -/
theorem referenceFieldsOf_ranges {r : Record} {f : ReferenceFields} (valid : referenceFieldsOf r = .ok f) :
    (16 ≤ f.window ∧ f.window ≤ 65535) ∧ (1 ≤ f.lockCount ∧ f.lockCount ≤ 15) ∧ (1 ≤ f.missLimit ∧ f.missLimit ≤ 15) ∧
      ∀ trim, f.trim = some trim → -262144 ≤ trim ∧ trim ≤ 262144 := by
  have wide := (le16 r 6).isLt
  rw [referenceFieldsOf_eq] at valid
  split_ifs at valid with mode window lockCount missLimit trim
  cases valid
  unfold referenceFields
  dsimp only
  refine ⟨by omega, by omega, by omega, fun t carried => ?_⟩
  split at carried
  · cases carried
  · next present =>
    cases carried
    have inside := not_or.mp fun beyond => trim ⟨present, beyond⟩
    exact ⟨not_lt.mp inside.1, not_lt.mp inside.2⟩

/-! ### The timebase -/

theorem clampTrim_range (t : Int) : -262144 ≤ clampTrim t ∧ clampTrim t ≤ 262144 := by
  rw [clampTrim_eq]
  omega

theorem Timebase.Sound.edge {t : Timebase} (sound : t.Sound) : t.edge.1.Sound := by
  unfold Timebase.edge
  split
  · exact sound
  · next state => exact { sound with disc := sound.disc.seekEdge (.inl state) t.mono }
  · next state => exact { sound with disc := sound.disc.seekEdge (.inr state) t.mono }
  · next state =>
    obtain ⟨limitLow, -⟩ := sound.disc.missLimit
    split
    · split
      · next within =>
        have disc := sound.disc
        exact { sound with
          trim := clampTrim_range _
          disc := { disc with
            miss := Nat.zero_le _
            locked := fun _ => ⟨limitLow, rfl⟩
            lastError := disc.error within
            off := fun h => by simp [state] at h } }
      · exact sound
    · exact sound

theorem Timebase.Sound.configure {t : Timebase} (sound : t.Sound) {r : Record} {f : ReferenceFields}
    (valid : referenceFieldsOf r = .ok f) : (t.configure f).Sound := by
  obtain ⟨window, lockCount, missLimit, trims⟩ := referenceFieldsOf_ranges valid
  have trim : -262144 ≤ f.trim.getD t.trim ∧ f.trim.getD t.trim ≤ 262144 := by
    rcases carried : f.trim with _ | trim
    · exact sound.trim
    · exact trims trim carried
  exact { sound with
    trim := trim
    disc := {
      window := window
      lockCount := lockCount
      missLimit := missLimit
      good := Nat.zero_le _
      seeking := fun _ => lockCount.1
      miss := Nat.zero_le _
      locked := fun h => by simp only [Timebase.configure] at h; split at h <;> cases h
      lastError := (by decide : (-65535 : Int) ≤ 0 ∧ (0 : Int) ≤ 65535)
      off := fun _ => rfl } }

theorem Timebase.Sound.startUnit {t : Timebase} (sound : t.Sound) : t.startUnit.Sound := by
  have trim := sound.trim
  have residue := sound.residue
  unfold Timebase.startUnit
  simp only [Config.residueLimit]
  split
  · exact { sound with residue := by dsimp only; omega, unitLength := .inr (.inr rfl) }
  split
  · exact { sound with residue := by dsimp only; omega, unitLength := .inl rfl }
  · exact { sound with residue := by dsimp only; omega, unitLength := .inr (.inl rfl) }

theorem Timebase.Sound.tick {t : Timebase} (sound : t.Sound) (on : t.exhausted = false) (before : t.mono < Config.monoLast) :
    t.tick.Sound := by
  have risen : { t with mono := t.mono + 1 }.Sound := { sound with
    mono := by simp only [Config.monoLast] at before; dsimp only; omega
    exhausted := fun gone => by simp [on] at gone }
  unfold Timebase.tick
  dsimp only
  split
  · exact risen.startUnit
  · exact risen

theorem Timebase.Sound.step {c : Instr} {t u : Timebase} (sound : t.Sound) (step : t.Step c u) : u.Sound := by
  cases step with
  | kept => exact sound
  | reset => exact timebaseReset_sound
  | configured _ valid => exact sound.configure valid
  | edge => exact sound.edge
  | closed => exact { sound with disc := sound.disc.close t.mono }
  | exhausted last => exact { sound with exhausted := fun _ => last }
  | ticked on before => exact sound.tick on before

/-- Settles O8: every command makes a step of the timebase, and each step keeps the ranges. -/
theorem timebaseStaysInRange : Obligations.TimebaseStaysInRange :=
  fun _ _ _ sound e => sound.step (exec_timeSteps e).time

end Sys2Proof.Machine
end

section
/-! SUPPORT. The fine unit, the exhaustion of mono time, and the reference edges and window closes of the discipline (R53 to R63,
R66). -/

namespace Sys2Proof.Machine

/-! ### Fine units and the last instant -/

/-- The start of a fine unit, field by field (R53). -/
theorem Timebase.startUnit_eq (t : Timebase) : t.startUnit =
    { t with
      residue := if 2 ^ 26 ≤ t.residue + t.trim then t.residue + t.trim - 2 ^ 26
        else if t.residue + t.trim ≤ -2 ^ 26 then t.residue + t.trim + 2 ^ 26 else t.residue + t.trim
      unitLength := if 2 ^ 26 ≤ t.residue + t.trim then 17 else if t.residue + t.trim ≤ -2 ^ 26 then 15 else 16 } := by
  unfold Timebase.startUnit
  simp only [Config.residueLimit, Int.reducePow, Int.reduceNeg]
  split_ifs <;> rfl

/-- Settles O39: nothing is outstanding, and the tick chooses the length of the next unit. -/
theorem fineUnitAdvancesMono : Obligations.FineUnitAdvancesMono := by
  intro s on none r
  have second : (if s.wall.active then wholeSecond s.wallNow else 0) =
      if s.wall.state = .unset then 0 else s.wallNow / 2 ^ 20 := by
    unfold Wall.active
    cases s.wall.state <;> rfl
  have tick : s.time.tick = if s.time.mono + 1 < 2 ^ 52 - 1 then { s.time with mono := s.time.mono + 1 }.startUnit
      else { s.time with mono := s.time.mono + 1 } := rfl
  show execFineUnit s = _
  rw [execFineUnit, on, none, second, tick, Timebase.startUnit_eq]
  rfl

/-- Settles O45: the halt of MONO_EXHAUSTION, and a fine unit after it. -/
theorem exhaustionHaltsThePort : Obligations.ExhaustionHaltsThePort := by
  intro s on last
  obtain ⟨gone, goneEq⟩ : ∃ gone, gone = s.setTime { s.time with exhausted := true } := ⟨_, rfl⟩
  have time : (halt gone .timelineEnd 0).time = { s.time with exhausted := true } := by
    rw [(halt_sameTime gone .timelineEnd 0).time, goneEq, State.setTime_time]
  have same : { s with time := (halt gone .timelineEnd 0).time } = gone := by rw [time, goneEq]; rfl
  have port : gone.port = s.port := by rw [goneEq, State.setTime_port]
  refine ⟨halt gone .timelineEnd 0, ?_, time, ?_, fun serving => ?_, fun halted => ?_⟩
  · show execMonoExhaustion s = _
    rw [execMonoExhaustion, if_pos ⟨last, on⟩, goneEq]
  · show execFineUnit _ = _
    rw [execFineUnit, time]
    rfl
  · rw [same]
    exact halt_haltedAs gone .timelineEnd 0 (by rwa [port])
  · rw [same]
    exact halt_of_halted gone .timelineEnd 0 (by rwa [port])

/-! ### The discipline changed in an event -/

/-- `s` with the discipline record given anew. -/
def State.disciplined (s : State) (d : Discipline) : State := s.setTime { s.time with disc := d }

/-- An event that gives the discipline record anew and does no more: a REFERENCE report is offered where the state changes, with
the start of its write (R66, R184). -/
def State.judged (s : State) (d : Discipline) : State :=
  s.writeStarted (offerReference (s.disciplined d) s.time.disc.state)

theorem writeStarted_quiet {s t : State} (h : t.reports.records = s.reports.records) : s.writeStarted t = t := by
  rw [← writeOnAcceptance_eq]
  exact writeOnAcceptance_quiet s t h

theorem judged_same {s : State} {d : Discipline} (same : d.state = s.time.disc.state) : s.judged d = s.disciplined d := by
  have unreported : offerReference (s.disciplined d) s.time.disc.state = s.disciplined d := if_pos same.symm
  rw [State.judged, unreported]
  exact writeStarted_quiet rfl

theorem judged_changed {s : State} {d : Discipline} (changed : d.state ≠ s.time.disc.state) : s.judged d =
    s.writeStarted (offer (s.disciplined d)
      (.reference ⟨s.time.disc.state, d.state, s.time.trim, d.lastError, s.time.mono⟩)) := congrArg s.writeStarted (if_neg changed.symm)

theorem judged_time (s : State) (d : Discipline) : (s.judged d).time = { s.time with disc := d } := by
  rw [State.judged, ← writeOnAcceptance_eq, writeOnAcceptance_time, (offerReference_offersFrom _ _).time]
  rfl

/-- Of two records given one after the other, the first without a report, the second stands. -/
theorem disciplined_judged {s : State} {d : Discipline} (same : d.state = s.time.disc.state) (e : Discipline) :
    (s.disciplined d).judged e = s.judged e := by
  have old : (s.disciplined d).time.disc.state = s.time.disc.state := same
  rw [State.judged, old]
  rfl

/-! ### An edge -/

theorem within_eq_true {d : Discipline} {x edge : Nat} :
    d.within x edge = true ↔ x ≤ edge + d.window ∧ edge ≤ x + d.window := by
  simp [Discipline.within]

/-- The edge lies outside the window of whatever is expected (R57). -/
abbrev Discipline.Misses (d : Discipline) (edge : Nat) : Prop :=
  ∀ x, d.expect = some x → edge + d.window < x ∨ x + d.window < edge

theorem Discipline.Misses.not_within {d : Discipline} {x edge : Nat} (misses : d.Misses edge) (expected : d.expect = some x) :
    d.within x edge = false := by
  rw [← Bool.not_eq_true, within_eq_true]
  have := misses x expected
  omega

/-- An edge that the timebase does not take leaves the part alone (R57). -/
theorem exec_refEdge_stray {s : State} (stray : s.time.edge = (s.time, false)) : exec .refEdge s = .next s := by
  have unchanged : offerReference (s.setTime s.time) s.time.disc.state = s := if_pos rfl
  show execRefEdge s = _
  rw [execRefEdge, stray]
  dsimp only
  rw [unchanged]
  exact congrArg _ (writeOnAcceptance_quiet s s rfl)

theorem edge_off {t : Timebase} (off : t.disc.state = .off) : t.edge = (t, false) := by
  rw [Timebase.edge, off]

theorem edge_locked_stray {t : Timebase} (locked : t.disc.state = .locked) (misses : t.disc.Misses t.mono) :
    t.edge = (t, false) := by
  rw [Timebase.edge, locked]
  dsimp only
  split
  · next x expected => rw [misses.not_within expected]; rfl
  · rfl

/-- The edge of the instant at which a close has entered HOLDOVER is stray (R62). -/
theorem edge_entered_stray {t : Timebase} (holdover : t.disc.state = .holdover) (entered : t.disc.holdoverAt = some t.mono) :
    t.edge = (t, false) := by
  have kept : t.disc.seekEdge t.mono = t.disc := if_pos ⟨holdover, entered⟩
  rw [Timebase.edge, holdover]
  dsimp only
  rw [kept]

/-- An edge may lead to a lock: in ACQUIRE, and in HOLDOVER but at the instant at which a close has entered it (R59, R61, R62). -/
abbrev Discipline.Seeks (d : Discipline) (edge : Nat) : Prop :=
  d.state = .acquire ∨ d.state = .holdover ∧ d.holdoverAt ≠ some edge

theorem exec_refEdge_seeks {s : State} (seeks : s.time.disc.Seeks s.time.mono) :
    exec .refEdge s = .next (s.judged (s.time.disc.seekEdge s.time.mono)) := by
  have edge : s.time.edge = ({ s.time with disc := s.time.disc.seekEdge s.time.mono }, false) := by
    rcases seeks with state | ⟨state, -⟩ <;> rw [Timebase.edge, state]
  show execRefEdge s = _
  rw [execRefEdge, edge]
  dsimp only
  rw [writeOnAcceptance_eq]
  rfl

theorem Discipline.Seeks.not_entered {d : Discipline} {edge : Nat} (seeks : d.Seeks edge) :
    ¬(d.state = .holdover ∧ d.holdoverAt = some edge) := by
  rintro ⟨holdover, entered⟩
  rcases seeks with acquire | ⟨-, other⟩
  · rw [acquire] at holdover; cases holdover
  · exact other entered

/-- An edge in the window carries the run on (R59, R61). -/
theorem seekEdge_good {d : Discipline} {x edge : Nat} (seeks : d.Seeks edge) (expected : d.expect = some x)
    (within : d.within x edge = true) : d.seekEdge edge =
      { d with good := d.good + 1, lastError := (edge : Int) - (x : Int),
               expect := some (edge + 2 ^ 20) }.lockIfReached := by
  rw [Discipline.seekEdge, if_neg seeks.not_entered, expected]
  exact if_pos within

/-- Any other edge begins it anew (R59, R61). -/
theorem seekEdge_anew {d : Discipline} {edge : Nat} (seeks : d.Seeks edge) (misses : d.Misses edge) :
    d.seekEdge edge = { d with good := 1, expect := some (edge + 2 ^ 20) }.lockIfReached := by
  rw [Discipline.seekEdge, if_neg seeks.not_entered]
  split
  · next x expected => rw [misses.not_within expected]; rfl
  · rfl

/-- Settles O40: the stray edges, the run with and without the lock, and the good edge in LOCKED. -/
theorem refEdgeIsJudgedByTheDiscipline : Obligations.RefEdgeIsJudgedByTheDiscipline := by
  refine ⟨fun s => ⟨fun off => exec_refEdge_stray (edge_off off),
    fun locked misses => exec_refEdge_stray (edge_locked_stray locked misses),
    fun holdover entered => exec_refEdge_stray (edge_entered_stray holdover entered), ?_⟩, ?_⟩
  · intro seeks good lastError taken run
    have judged : exec .refEdge s = .next (s.judged run.lockIfReached) := by
      rw [exec_refEdge_seeks seeks]
      rcases taken with ⟨misses, rfl, rfl⟩ | ⟨x, expected, early, late, rfl, rfl⟩
      · rw [seekEdge_anew seeks misses]
      · rw [seekEdge_good seeks expected (within_eq_true.mpr ⟨early, late⟩)]
    refine ⟨fun few => ?_, fun enough => ?_⟩
    · have unlocked : run.lockIfReached = run := if_neg (not_le.mpr few)
      rw [judged, unlocked]
      exact congrArg _ (judged_same rfl)
    · have locked : run.lockIfReached = { run with state := .locked, miss := 0 } := if_pos enough
      have unlike : DiscState.locked ≠ s.time.disc.state := by
        rcases seeks with state | ⟨state, -⟩ <;> rw [state] <;> decide
      rw [judged, locked, judged_changed unlike]
      rfl
  · intro s x locked expected early late unpending e
    have unsnapped : applySnap (s.setTime (s.time.corrected x)) = s.setTime (s.time.corrected x) := by
      rw [applySnap, State.setTime_wall, unpending]
    rw [exec_refEdge_locked locked expected early late, unsnapped]
    exact congrArg _ (writeStarted_quiet rfl)

/-! ### The close of a window -/

theorem exec_windowClose_due {s : State} (due : s.time.closeDue = true) :
    exec .windowClose s = .next (s.judged (s.time.disc.close s.time.mono)) := by
  show execWindowClose s = _
  rw [execWindowClose, if_pos due, writeOnAcceptance_eq]
  rfl

theorem exec_windowClose_idle {s : State} (idle : s.time.closeDue = false) : exec .windowClose s = .next s := by
  show execWindowClose s = _
  rw [execWindowClose, idle]
  rfl

/-- A window closes one instant past it (R57). -/
theorem closeDue_iff {t : Timebase} {x : Nat} (on : t.exhausted = false) (expected : t.disc.expect = some x) :
    t.closeDue = true ↔ t.disc.state ≠ .off ∧ t.mono = x + t.disc.window + 1 := by
  simp [Timebase.closeDue, on, expected]

theorem close_acquire {d : Discipline} (acquire : d.state = .acquire) (now : Nat) :
    d.close now = { d with expect := none, good := 0 } := by
  rw [Discipline.close, acquire]

theorem close_holdover {d : Discipline} {x : Nat} (holdover : d.state = .holdover) (expected : d.expect = some x) (now : Nat) :
    d.close now = { d with expect := some (x + 2 ^ 20), good := 0 } := by
  rw [Discipline.close, holdover, expected]
  rfl

theorem close_locked_miss {d : Discipline} {x : Nat} (locked : d.state = .locked) (expected : d.expect = some x)
    (few : d.miss + 1 < d.missLimit) (now : Nat) :
    d.close now = { d with expect := some (x + 2 ^ 20), miss := d.miss + 1 } := by
  rw [Discipline.close, locked, expected]
  exact if_neg (not_le.mpr few)

theorem close_locked_limit {d : Discipline} {x : Nat} (locked : d.state = .locked) (expected : d.expect = some x)
    (limit : d.missLimit ≤ d.miss + 1) (now : Nat) :
    d.close now = { d with state := .holdover, expect := some (x + 2 ^ 20), miss := d.miss + 1, good := 0,
                           holdoverAt := some now } := by
  rw [Discipline.close, locked, expected]
  exact if_pos limit

/-- Settles O42: no close at another instant, and the close of each state of the discipline at its own. -/
theorem windowCloseCountsTheMiss : Obligations.WindowCloseCountsTheMiss := by
  intro s x on expected
  have closeDue := closeDue_iff on expected
  refine ⟨fun other => ?_, fun here => ⟨fun acquire => ?_, fun holdover => ?_, fun locked few => ?_, fun locked limit => ?_⟩⟩
  · exact exec_windowClose_idle (Bool.not_eq_true _ ▸ fun due => other (closeDue.mp due).2)
  · rw [exec_windowClose_due (closeDue.mpr ⟨by simp [acquire], here⟩), close_acquire acquire]
    exact congrArg _ (judged_same rfl)
  · rw [exec_windowClose_due (closeDue.mpr ⟨by simp [holdover], here⟩), close_holdover holdover expected]
    exact congrArg _ (judged_same rfl)
  · rw [exec_windowClose_due (closeDue.mpr ⟨by simp [locked], here⟩), close_locked_miss locked expected few]
    exact congrArg _ (judged_same rfl)
  · rw [exec_windowClose_due (closeDue.mpr ⟨by simp [locked], here⟩), close_locked_limit locked expected limit,
      judged_changed (by simp [locked]), locked]
    rfl

/-! ### The edge that just misses a window, and its close -/

/-- The edge one instant past the window misses it (R57). -/
theorem misses_past {d : Discipline} {x edge : Nat} (expected : d.expect = some x) (here : edge = x + d.window + 1) :
    d.Misses edge := by
  intro y same
  rw [expected, Option.some.injEq] at same
  omega

/-- What is expected after the close lies beyond the reach of that edge (R57, R62). -/
theorem misses_next {d : Discipline} {x edge : Nat} (expected : d.expect = some (x + 2 ^ 20)) (narrow : d.window ≤ 65535)
    (here : edge = x + d.window + 1) : d.Misses edge := by
  intro y same
  rw [expected, Option.some.injEq] at same
  omega

/-- The close of a window keeps a record that may lead to a lock as one (R59, R61). -/
theorem close_seeks {d : Discipline} {x edge : Nat} (seeks : d.Seeks edge) (expected : d.expect = some x) :
    (d.close edge).state = d.state ∧ (d.close edge).Seeks edge := by
  rcases seeks with acquire | ⟨holdover, other⟩
  · rw [close_acquire acquire]
    exact ⟨rfl, .inl acquire⟩
  · rw [close_holdover holdover expected]
    exact ⟨rfl, .inr ⟨holdover, other⟩⟩

/-- The run that such an edge begins anew is the same with the window closed before it (R59, R61, R62). -/
theorem close_seekEdge {d : Discipline} {x edge : Nat} (seeks : d.Seeks edge) (expected : d.expect = some x)
    (narrow : d.window ≤ 65535) (here : edge = x + d.window + 1) : (d.close edge).seekEdge edge = d.seekEdge edge := by
  rw [seekEdge_anew seeks (misses_past expected here)]
  rcases seeks with acquire | ⟨holdover, other⟩
  · rw [close_acquire acquire]
    exact seekEdge_anew (.inl acquire) (fun y none => by cases none)
  · rw [close_holdover holdover expected]
    exact seekEdge_anew (.inr ⟨holdover, other⟩) (misses_next rfl narrow here)

/-- After an edge that was taken, the window about the next expectation is not at its close (R57). -/
theorem judged_seekEdge_closeDue {s : State} (on : s.time.exhausted = false)
    (seeks : s.time.disc.Seeks s.time.mono) (misses : s.time.disc.Misses s.time.mono) :
    (s.judged (s.time.disc.seekEdge s.time.mono)).time.closeDue = false := by
  have expected : (s.time.disc.seekEdge s.time.mono).expect = some (s.time.mono + 2 ^ 20) := by
    rw [seekEdge_anew seeks misses]
    unfold Discipline.lockIfReached
    split <;> rfl
  rw [judged_time, ← Bool.not_eq_true,
    closeDue_iff (t := { s.time with disc := s.time.disc.seekEdge s.time.mono }) on expected]
  rintro ⟨-, here⟩
  dsimp only at here
  omega

/-- Where the edge does not lead to a lock, it is stray before the close and after it (R57, R62). -/
theorem edge_stray_about_close {t : Timebase} {x : Nat} (set : t.disc.state ≠ .off) (unsought : ¬ t.disc.Seeks t.mono)
    (expected : t.disc.expect = some x) (narrow : t.disc.window ≤ 65535) (here : t.mono = x + t.disc.window + 1) :
    t.edge = (t, false) ∧
      { t with disc := t.disc.close t.mono }.edge = ({ t with disc := t.disc.close t.mono }, false) := by
  cases state : t.disc.state with
  | off => exact absurd state set
  | acquire => exact absurd (.inl state) unsought
  | locked =>
    refine ⟨edge_locked_stray state (misses_past expected here), ?_⟩
    by_cases limit : t.disc.missLimit ≤ t.disc.miss + 1
    · rw [close_locked_limit state expected limit]
      exact edge_entered_stray rfl rfl
    · rw [close_locked_miss state expected (not_le.mp limit)]
      exact edge_locked_stray state (misses_next rfl narrow here)
  | holdover =>
    have entered : t.disc.holdoverAt = some t.mono := not_not.mp fun other => unsought (.inr ⟨state, other⟩)
    refine ⟨edge_entered_stray state entered, ?_⟩
    rw [close_holdover state expected]
    exact edge_entered_stray state entered

/-- Settles O43: an edge that begins a run does so with or without the close before it, and any other is stray in either order. -/
theorem edgeAndCloseCommute : Obligations.EdgeAndCloseCommute := by
  intro s x on sound set expected here
  obtain ⟨-, narrow⟩ := sound.disc.window
  have closed := exec_windowClose_due ((closeDue_iff on expected).mpr ⟨set, here⟩)
  by_cases seeks : s.time.disc.Seeks s.time.mono
  · obtain ⟨same, again⟩ := close_seeks seeks expected
    have late := judged_seekEdge_closeDue on seeks (misses_past expected here)
    refine ⟨_, _, _, closed, ?_, exec_refEdge_seeks seeks, exec_windowClose_idle late⟩
    calc exec .refEdge (s.judged (s.time.disc.close s.time.mono))
      _ = exec .refEdge (s.disciplined (s.time.disc.close s.time.mono)) := by rw [judged_same same]
      _ = .next ((s.disciplined (s.time.disc.close s.time.mono)).judged
            ((s.time.disc.close s.time.mono).seekEdge s.time.mono)) := exec_refEdge_seeks again
      _ = .next (s.judged (s.time.disc.seekEdge s.time.mono)) := by
        rw [disciplined_judged same, close_seekEdge seeks expected narrow here]
  · obtain ⟨before, after⟩ := edge_stray_about_close set seeks expected narrow here
    refine ⟨_, _, _, closed, exec_refEdge_stray ?_, exec_refEdge_stray before, closed⟩
    rw [judged_time]
    exact after

end Sys2Proof.Machine
end

section
/-! SUPPORT. CONFIG_REFERENCE (R64 to R66): its fields, its refusals, and the restart of the discipline. -/

namespace Sys2Proof.Machine

/-- The timebase that a record configures (R65). -/
theorem configure_referenceFields (t : Timebase) (r : Record) : t.configure (referenceFields r) =
    { t with
      trim := if le32 r 12 = 0x80000000 then t.trim else (le32 r 12).toInt
      disc := { state := if (byteAt r 4).toNat = 1 then .acquire else .off, window := (le16 r 6).toNat,
                lockCount := (byteAt r 8).toNat, missLimit := (byteAt r 9).toNat, expect := none, good := 0, miss := 0,
                lastError := 0, holdoverAt := none } } := by
  have trim : (referenceFields r).trim.getD t.trim = if le32 r 12 = 0x80000000 then t.trim else (le32 r 12).toInt := by
    unfold referenceFields
    dsimp only
    split <;> rfl
  have state : (if (referenceFields r).on then DiscState.acquire else .off) =
      if (byteAt r 4).toNat = 1 then .acquire else .off := by simp only [referenceFields, decide_eq_true_eq]
  rw [Timebase.configure, trim, state]
  rfl

/-- A CONFIG_REFERENCE with an invalid field is answered with its number and changes nothing (R64, R170). -/
theorem exec_configReference_invalid {s : State} {c : InHand} {n : Nat} (hold : s.holds c 0x0D)
    (invalid : referenceFieldsOf c.record = .error n) :
    exec .configReference s = .next (s.answered c .badField (some n) .none) :=
  carryOut_unchanged hold (by rw [configReferenceOwner, invalid]; rfl)

/-! ### The restart -/

theorem configReferenceOwner_valid {s : State} {c : InHand} {f : ReferenceFields} (valid : referenceFieldsOf c.record = .ok f) :
    configReferenceOwner c s =
      { state := offerReference (s.dropSnap.setTime (s.time.configure f)) s.time.disc.state
        reply := .now .ok none (.reference s.time.disc.state (s.time.configure f).disc.state (s.time.configure f).trim)
        ended := s.snapEnds .cancelled none .noChange } := by
  rw [configReferenceOwner, valid]
  rfl

/-- With room, and no report lost, a change of the discipline's state is reported at the end of the queue (R66, R180). -/
theorem offerReference_records {s : State} {old : DiscState} (changed : old ≠ s.time.disc.state)
    (running : s.port.state = .running) (told : s.reports.lost = 0)
    (room : s.reports.records.length + s.reports.reservations < 32) :
    (offerReference s old).reports.records = s.reports.records ++
      [.reference ⟨old, s.time.disc.state, s.time.trim, s.time.disc.lastError, s.time.mono⟩] := by
  have margin : 1 ≤ s.reports.margin := by
    simp only [ReportQueue.margin, ReportQueue.free, Config.queueRoom]
    omega
  rw [offerReference, if_neg changed, offer, if_pos ⟨running, margin⟩, if_pos told, State.append_reports]

/-- The completions of an event stand with its reports behind what was queued, in an order left open (R180, R181). -/
theorem State.AcceptsFrom.gains {s u t : State} {reports : List Report} {cs : List Completion}
    (a : u.AcceptsFrom t s.queued cs) (records : u.reports.records = s.reports.records ++ reports)
    (reservations : u.reports.reservations = s.reports.reservations) :
    s.gains t (reports ++ cs.map .completion) cs.length := by
  obtain ⟨order, perm, added⟩ := a.records
  have base : s.queued = s.reports.records.length := rfl
  rw [records, base, List.drop_left] at perm
  rw [records, base, List.take_left] at added
  exact ⟨⟨order, perm, added⟩, by rw [a.reservations, reservations]⟩

/-- A valid CONFIG_REFERENCE: what it leaves of every block, and what it adds to the report queue (R65, R66, R174, R180). -/
theorem exec_configReference_valid {s : State} {c : InHand} {f : ReferenceFields} {time : Timebase} {cancelled : List Report}
    (hold : s.holds c 0x0D) (valid : referenceFieldsOf c.record = .ok f) (configured : s.time.configure f = time)
    (ended : (s.snapEnds .cancelled none .noChange).map .completion = cancelled) :
    let answer := c.answer .ok none (.reference s.time.disc.state time.disc.state time.trim)
    ∃ t, exec .configReference s = .next (s.concluded t) ∧ t.time = time ∧ t.wall = { s.wall with snap := none } ∧
      t.cmd = { s.cmd with state := .idle, snap := none } ∧ t.slots = s.slots ∧ t.sched = s.sched ∧
      t.chans = s.chans ∧ t.caps = s.caps ∧ t.port = s.port ∧ t.reports.write = s.reports.write ∧
      answer ∈ t.reports.records ∧ (∀ r ∈ cancelled, r ∈ t.reports.records) ∧
      (s.time.disc.state ≠ time.disc.state → s.port.state = .running → s.reports.lost = 0 →
        s.reports.records.length + s.reports.reservations < 32 →
        s.gains t (.reference ⟨s.time.disc.state, time.disc.state, time.trim, time.disc.lastError, time.mono⟩ ::
          cancelled ++ [answer]) (1 + cancelled.length)) := by
  subst configured ended
  have told := offerReference_offersFrom (s.dropSnap.setTime (s.time.configure f)) s.time.disc.state
  have a := acceptAll_acceptsFrom s.queued (s.snapEnds .cancelled none .noChange ++
    [c.completion .ok none (.reference s.time.disc.state (s.time.configure f).disc.state (s.time.configure f).trim)]) _
    told.schedulesFrom.queued_le
  refine ⟨_, carryOut_concluded hold (configReferenceOwner_valid valid), a.time.trans told.time, a.wall.trans told.wall,
    congrArg (fun u : CmdUnit => { u with state := .idle }) (a.cmd.trans told.cmd), a.slots.trans told.slots,
    a.sched.trans told.sched, a.chans.trans told.chans, a.caps.trans told.caps, a.port.trans told.port,
    a.write.trans told.write, a.mem (List.mem_append_right _ (List.mem_singleton.mpr rfl)), fun r mem => ?_,
    fun changed running lost room => ?_⟩
  · obtain ⟨completion, among, rfl⟩ := List.mem_map.mp mem
    exact a.mem (List.mem_append_left _ among)
  · have gains := a.gains (offerReference_records (s := s.dropSnap.setTime (s.time.configure f)) changed running lost room)
      told.reservations
    rw [List.length_append, List.map_append, Nat.add_comm] at gains
    rw [List.length_map]
    exact gains

/-- Where no SNAP is pending and the state does not change, the answer stands alone (R65, R66). -/
theorem exec_configReference_alone {s : State} {c : InHand} {f : ReferenceFields} (hold : s.holds c 0x0D)
    (valid : referenceFieldsOf c.record = .ok f) (unpending : s.wall.snap = none) (undeferred : s.cmd.snap = none)
    (same : s.time.disc.state = (s.time.configure f).disc.state) :
    exec .configReference s = .next ((s.setTime (s.time.configure f)).answered c .ok none
      (.reference s.time.disc.state s.time.disc.state (s.time.configure f).trim)) := by
  have undropped : s.dropSnap = s := by
    rw [State.dropSnap, ← unpending, ← undeferred]
    rfl
  have unreported : offerReference (s.setTime (s.time.configure f)) s.time.disc.state = s.setTime (s.time.configure f) :=
    if_pos same
  have unended : s.snapEnds .cancelled none .noChange = [] := by rw [State.snapEnds, unpending]
  refine congrArg Host.Outcome.next
    (carryOut_now 0x0D s (s.setTime (s.time.configure f)) c configReferenceOwner _ _ _ hold ?_ rfl)
  rw [configReferenceOwner_valid valid, undropped, unreported, unended, ← same]

/-- A lock count or a miss limit in its range (R64). -/
theorem count_fits {n : Nat} (low : 1 ≤ n) (high : n ≤ 15) : ¬(n = 0 ∨ 15 < n) := by omega

/-- Settles O44: the five refusals, and the valid command with and without anything to report. -/
theorem configReferenceRestartsAcquisition : Obligations.ConfigReferenceRestartsAcquisition := by
  intro s c hold mode window lockCount missLimit trim absent
  have fields := referenceFieldsOf_eq c.record
  refine ⟨fun bad => ?_, fun m bad => ?_, fun m w bad => ?_, fun m w l₁ l₂ bad => ?_, fun m w l₁ l₂ k₁ k₂ here bad => ?_,
    fun m w l₁ l₂ k₁ k₂ fits => ?_⟩
  · rw [if_pos bad] at fields
    exact exec_configReference_invalid hold fields
  · rw [if_neg (not_lt.mpr m), if_pos bad] at fields
    exact exec_configReference_invalid hold fields
  · rw [if_neg (not_lt.mpr m), if_neg (not_lt.mpr w), if_pos bad] at fields
    exact exec_configReference_invalid hold fields
  · rw [if_neg (not_lt.mpr m), if_neg (not_lt.mpr w), if_neg (count_fits l₁ l₂), if_pos bad] at fields
    exact exec_configReference_invalid hold fields
  · rw [if_neg (not_lt.mpr m), if_neg (not_lt.mpr w), if_neg (count_fits l₁ l₂), if_neg (count_fits k₁ k₂),
      if_pos ⟨here, bad⟩] at fields
    exact exec_configReference_invalid hold fields
  · intro set time answer cancelled
    have inside : ¬(¬ absent ∧ (trim < -262144 ∨ 262144 < trim)) := by
      rintro ⟨carried, beyond⟩
      rcases fits with none | ⟨low, high⟩
      · exact carried none
      · omega
    rw [if_neg (not_lt.mpr m), if_neg (not_lt.mpr w), if_neg (count_fits l₁ l₂), if_neg (count_fits k₁ k₂),
      if_neg inside] at fields
    have configured : s.time.configure (referenceFields c.record) = time := configure_referenceFields s.time c.record
    have ended : (s.snapEnds .cancelled none .noChange).map .completion = cancelled := by
      unfold State.snapEnds cancelled
      cases s.wall.snap <;> cases s.cmd.snap <;> rfl
    refine ⟨exec_configReference_valid hold fields configured ended, fun unpending undeferred same => ?_⟩
    have alone := exec_configReference_alone hold fields unpending undeferred (by rw [configured]; exact same)
    rw [configured, same] at alone
    exact alone

end Sys2Proof.Machine
end

section
/-! SUPPORT. The calendar (R71, R74, tables 4.2 and 4.3): the fields that are valid, and the conversion of a wall second to its
calendar fields and back. -/

namespace Sys2Proof.Machine

/-! ### Valid calendar fields -/

/-- The rows of table 4.3, by the number of the field: what each accepts of a date and time with its fraction. -/
def Calendar.Accepts (c : Calendar) (fraction : Nat) : Nat → Prop
  | 1 => 2000 ≤ c.year ∧ c.year ≤ 2099
  | 2 => 1 ≤ c.month ∧ c.month ≤ 12
  | 3 => 1 ≤ c.day ∧ c.day ≤ daysOfMonth (leapYear c.year) c.month
  | 4 => c.hour ≤ 23
  | 5 => c.minute ≤ 59
  | 6 => c.second ≤ 59
  | 7 => fraction ≤ 1048575
  | _ => True

/-- A date and time of the years 2000 to 2099. -/
structure Calendar.Valid (c : Calendar) : Prop where
  year : 2000 ≤ c.year ∧ c.year ≤ 2099
  month : 1 ≤ c.month ∧ c.month ≤ 12
  day : 1 ≤ c.day ∧ c.day ≤ daysOfMonth (leapYear c.year) c.month
  hour : c.hour ≤ 23
  minute : c.minute ≤ 59
  second : c.second ≤ 59

theorem calendarError_eq_none_iff {c : Calendar} {fraction : Nat} :
    calendarError c fraction = none ↔ c.Valid ∧ fraction ≤ 1048575 := by
  constructor
  · intro valid
    unfold calendarError at valid
    split_ifs at valid with _ _ _ _ _ _ within
    exact ⟨⟨by omega, by omega, by omega, by omega, by omega, by omega⟩, Nat.lt_succ_iff.mp (not_le.mp within)⟩
  · rintro ⟨⟨year, month, day, hour, minute, second⟩, within⟩
    unfold calendarError
    rw [if_neg (by omega), if_neg (by omega), if_neg (by omega), if_neg (by omega), if_neg (by omega), if_neg (by omega),
      if_neg (not_le.mpr (Nat.lt_succ_iff.mpr within))]

/-- The first field that its row does not accept gives its number (table 4.3). -/
theorem calendarError_refuses {c : Calendar} {fraction : Nat} (n : Nat) (refused : ¬ c.Accepts fraction n)
    (before : ∀ m, m < n → c.Accepts fraction m) : calendarError c fraction = some n := by
  have year (h : 1 < n) : ¬(c.year < 2000 ∨ 2099 < c.year) := by have : _ ∧ _ := before 1 h; omega
  have month (h : 2 < n) : ¬(c.month < 1 ∨ 12 < c.month) := by have : _ ∧ _ := before 2 h; omega
  have day (h : 3 < n) : ¬(c.day < 1 ∨ daysOfMonth (leapYear c.year) c.month < c.day) := by
    have : _ ∧ _ := before 3 h; omega
  have hour (h : 4 < n) : ¬ 23 < c.hour := not_lt.mpr (before 4 h)
  have minute (h : 5 < n) : ¬ 59 < c.minute := not_lt.mpr (before 5 h)
  have second (h : 6 < n) : ¬ 59 < c.second := not_lt.mpr (before 6 h)
  unfold calendarError
  match n, refused with
  | 0, refused => exact absurd trivial refused
  | 1, refused =>
    simp only [Calendar.Accepts] at refused
    rw [if_pos (by omega)]
  | 2, refused =>
    simp only [Calendar.Accepts] at refused
    rw [if_neg (year (by omega)), if_pos (by omega)]
  | 3, refused =>
    simp only [Calendar.Accepts] at refused
    rw [if_neg (year (by omega)), if_neg (month (by omega)), if_pos (by omega)]
  | 4, refused =>
    rw [if_neg (year (by omega)), if_neg (month (by omega)), if_neg (day (by omega)), if_pos (not_le.mp refused)]
  | 5, refused =>
    rw [if_neg (year (by omega)), if_neg (month (by omega)), if_neg (day (by omega)), if_neg (hour (by omega)),
      if_pos (not_le.mp refused)]
  | 6, refused =>
    rw [if_neg (year (by omega)), if_neg (month (by omega)), if_neg (day (by omega)), if_neg (hour (by omega)),
      if_neg (minute (by omega)), if_pos (not_le.mp refused)]
  | 7, refused =>
    rw [if_neg (year (by omega)), if_neg (month (by omega)), if_neg (day (by omega)), if_neg (hour (by omega)),
      if_neg (minute (by omega)), if_neg (second (by omega)), if_pos (Nat.succ_le_of_lt (not_le.mp refused))]
  | n + 8, refused => exact absurd trivial refused

/-! ### Years and months -/

/-- A year has 366 days when it is a leap year, and 365 otherwise: as many as its twelve months have together. -/
theorem daysBeforeYear_succ (y : Nat) :
    daysBeforeYear (y + 1) = daysBeforeYear y + daysBeforeMonth (leapYear (2000 + y)) 13 := by
  by_cases leap : y % 4 = 0
  · have long : leapYear (2000 + y) = true := by simp only [leapYear, beq_iff_eq]; omega
    rw [long, show daysBeforeMonth true 13 = 366 from rfl, daysBeforeYear, daysBeforeYear]
    omega
  · have short : leapYear (2000 + y) = false := by simp only [leapYear, beq_eq_false_iff_ne]; omega
    rw [short, show daysBeforeMonth false 13 = 365 from rfl, daysBeforeYear, daysBeforeYear]
    omega

theorem daysBeforeMonth_succ (leap : Bool) {m : Nat} (low : 1 ≤ m) (high : m ≤ 12) :
    daysBeforeMonth leap (m + 1) = daysBeforeMonth leap m + daysOfMonth leap m := by
  interval_cases m <;> cases leap <;> rfl

/-- A month is over before any later one begins. -/
theorem daysBeforeMonth_later (leap : Bool) {m n : Nat} (low : 1 ≤ m) (later : m + 1 ≤ n) (high : n ≤ 13) :
    daysBeforeMonth leap m + daysOfMonth leap m ≤ daysBeforeMonth leap n := by
  induction n, later using Nat.le_induction with
  | base => exact (daysBeforeMonth_succ leap low (by omega)).ge
  | succ n later ih =>
    rw [daysBeforeMonth_succ leap (by omega) (by omega)]
    have := ih (by omega)
    omega

/-! ### The searches for the year and the month -/

theorem yearFrom_le (day top : Nat) : yearFrom day top ≤ top := by
  induction top with
  | zero => exact le_rfl
  | succ top ih => unfold yearFrom; split <;> omega

/-- The year found has begun. -/
theorem yearFrom_begun (day top : Nat) : daysBeforeYear (yearFrom day top) ≤ day := by
  induction top with
  | zero => simp [yearFrom, daysBeforeYear]
  | succ top ih =>
    unfold yearFrom
    split
    · assumption
    · exact ih

/-- The year after the one found has not begun. -/
theorem yearFrom_last {day top : Nat} (within : day < daysBeforeYear (top + 1)) :
    day < daysBeforeYear (yearFrom day top + 1) := by
  induction top with
  | zero => exact within
  | succ top ih =>
    unfold yearFrom
    split
    · exact within
    · next early => exact ih (not_le.mp early)

theorem monthFrom_range (leap : Bool) (day : Nat) {top : Nat} (positive : 1 ≤ top) :
    1 ≤ monthFrom leap day top ∧ monthFrom leap day top ≤ top := by
  induction top, positive using Nat.le_induction with
  | base => unfold monthFrom; split <;> simp [monthFrom]
  | succ top _ ih => unfold monthFrom; split <;> omega

/-- The month found has begun. -/
theorem monthFrom_begun (leap : Bool) (day top : Nat) : daysBeforeMonth leap (monthFrom leap day top) ≤ day := by
  induction top with
  | zero => cases leap <;> exact Nat.zero_le day
  | succ top ih =>
    unfold monthFrom
    split
    · assumption
    · exact ih

/-- The month after the one found has not begun. -/
theorem monthFrom_last {leap : Bool} {day top : Nat} (within : day < daysBeforeMonth leap (top + 1)) :
    day < daysBeforeMonth leap (monthFrom leap day top + 1) := by
  induction top with
  | zero => cases leap <;> exact absurd within (Nat.not_lt_zero day)
  | succ top ih =>
    unfold monthFrom
    split
    · exact within
    · next early => exact ih (not_le.mp early)

/-- Only one year holds a day. -/
theorem year_unique {day y z : Nat} (begunY : daysBeforeYear y ≤ day) (lastY : day < daysBeforeYear (y + 1))
    (begunZ : daysBeforeYear z ≤ day) (lastZ : day < daysBeforeYear (z + 1)) : y = z := by
  simp only [daysBeforeYear] at begunY lastY begunZ lastZ
  omega

/-- A month's days follow its beginning, and only one month of a year holds a day of the year. -/
theorem month_unique {leap : Bool} {day m n : Nat} (m1 : 1 ≤ m) (m12 : m ≤ 12) (n1 : 1 ≤ n) (n12 : n ≤ 12)
    (begunM : daysBeforeMonth leap m ≤ day) (lastM : day < daysBeforeMonth leap m + daysOfMonth leap m)
    (begunN : daysBeforeMonth leap n ≤ day) (lastN : day < daysBeforeMonth leap n + daysOfMonth leap n) : m = n := by
  rcases lt_trichotomy m n with earlier | same | later
  · have := daysBeforeMonth_later leap m1 earlier (by omega); omega
  · exact same
  · have := daysBeforeMonth_later leap n1 later (by omega); omega

/-! ### The day of a date -/

/-- The day number of a date: the days from the beginning of 2000 (R71). -/
def Calendar.dayNumber (c : Calendar) : Nat :=
  daysBeforeYear (c.year - 2000) + daysBeforeMonth (leapYear c.year) c.month + (c.day - 1)

/-- The second of the day of a time. -/
def Calendar.timeOfDay (c : Calendar) : Nat := c.hour * 3600 + c.minute * 60 + c.second

theorem secondOfCalendar_eq (c : Calendar) : secondOfCalendar c = c.dayNumber * 86400 + c.timeOfDay := by
  simp only [secondOfCalendar, Calendar.dayNumber, Calendar.timeOfDay, Nat.add_assoc]

section
variable {c : Calendar} (valid : c.Valid)
include valid

theorem Calendar.Valid.leap : leapYear (2000 + (c.year - 2000)) = leapYear c.year := by
  rw [Nat.add_sub_cancel' valid.year.1]

theorem Calendar.Valid.timeOfDay_lt : c.timeOfDay < 86400 := by
  obtain ⟨-, -, -, hour, minute, second⟩ := valid
  unfold Calendar.timeOfDay
  omega

/-- A date lies in its year. -/
theorem Calendar.Valid.dayNumber_lt_year : c.dayNumber < daysBeforeYear (c.year - 2000 + 1) := by
  have month := daysBeforeMonth_later (leapYear c.year) (n := 13) valid.month.1 (by have := valid.month.2; omega) le_rfl
  have day := valid.day
  rw [daysBeforeYear_succ, valid.leap, Calendar.dayNumber]
  omega

theorem Calendar.Valid.yearFrom_dayNumber : yearFrom c.dayNumber 99 = c.year - 2000 := by
  have year := valid.year
  have here := valid.dayNumber_lt_year
  have begun : daysBeforeYear (c.year - 2000) ≤ c.dayNumber := by unfold Calendar.dayNumber; omega
  have last : c.dayNumber < daysBeforeYear (99 + 1) := by
    simp only [daysBeforeYear] at here ⊢
    omega
  exact year_unique (yearFrom_begun _ _) (yearFrom_last last) begun here

theorem Calendar.Valid.monthFrom_dayOfYear :
    monthFrom (leapYear c.year) (daysBeforeMonth (leapYear c.year) c.month + (c.day - 1)) 12 = c.month := by
  obtain ⟨-, ⟨low, high⟩, ⟨first, last⟩, -, -, -⟩ := valid
  have year := daysBeforeMonth_later (leapYear c.year) (n := 12 + 1) low (by omega) le_rfl
  obtain ⟨low', high'⟩ := monthFrom_range (leapYear c.year) (daysBeforeMonth (leapYear c.year) c.month + (c.day - 1))
    (top := 12) (by omega)
  have next := monthFrom_last (leap := leapYear c.year) (day := daysBeforeMonth (leapYear c.year) c.month + (c.day - 1))
    (top := 12) (by omega)
  rw [daysBeforeMonth_succ _ low' high'] at next
  exact month_unique low' high' low high (monthFrom_begun _ _ _) next (by omega) (by omega)

theorem Calendar.Valid.secondOfCalendar_div : secondOfCalendar c / 86400 = c.dayNumber := by
  have := valid.timeOfDay_lt
  rw [secondOfCalendar_eq]
  omega

theorem Calendar.Valid.secondOfCalendar_lt : secondOfCalendar c < 3155760000 := by
  have time := valid.timeOfDay_lt
  have day := valid.dayNumber_lt_year
  have year := valid.year
  rw [secondOfCalendar_eq]
  simp only [daysBeforeYear] at day
  omega

/-- The fields of the second of a date and time are that date and time, with its weekday (R71). -/
theorem Calendar.Valid.calendarOfSecond_secondOfCalendar :
    calendarOfSecond (secondOfCalendar c) = { c with weekday := (secondOfCalendar c / 86400 + 5) % 7 + 1 } := by
  have time := valid.timeOfDay_lt
  have rest : secondOfCalendar c % 86400 = c.timeOfDay := by
    rw [secondOfCalendar_eq]
    omega
  have dayOfYear : c.dayNumber - daysBeforeYear (c.year - 2000) =
      daysBeforeMonth (leapYear c.year) c.month + (c.day - 1) := by
    unfold Calendar.dayNumber
    omega
  unfold calendarOfSecond
  simp only [valid.secondOfCalendar_div, rest, valid.yearFrom_dayNumber, valid.leap, dayOfYear, valid.monthFrom_dayOfYear]
  obtain ⟨⟨begun, -⟩, -, ⟨first, -⟩, hour, minute, second⟩ := valid
  unfold Calendar.timeOfDay
  rw [Calendar.mk.injEq]
  exact ⟨by omega, rfl, by omega, by omega, by omega, by omega, rfl⟩

end

/-! ### The date of a day -/

/-- A second of the range has a date and time of the years 2000 to 2099, with the date of its day (R71). -/
theorem calendarOfSecond_valid {n : Nat} (range : n < 3155760000) :
    (calendarOfSecond n).Valid ∧ (calendarOfSecond n).dayNumber = n / 86400 := by
  obtain ⟨day, hday⟩ : ∃ day, n / 86400 = day := ⟨_, rfl⟩
  obtain ⟨y, hy⟩ : ∃ y, yearFrom day 99 = y := ⟨_, rfl⟩
  obtain ⟨leap, hleap⟩ : ∃ leap, leapYear (2000 + y) = leap := ⟨_, rfl⟩
  obtain ⟨m, hm⟩ : ∃ m, monthFrom leap (day - daysBeforeYear y) 12 = m := ⟨_, rfl⟩
  have fields : calendarOfSecond n =
      { year := 2000 + y, month := m, day := day - daysBeforeYear y - daysBeforeMonth leap m + 1,
        hour := n % 86400 / 3600, minute := n % 86400 % 3600 / 60, second := n % 86400 % 60, weekday := (day + 5) % 7 + 1 } := by
    unfold calendarOfSecond
    simp only [hday, hy, hleap, hm]
  have yearRange : y ≤ 99 := hy ▸ yearFrom_le day 99
  have begun : daysBeforeYear y ≤ day := hy ▸ yearFrom_begun day 99
  have last : day < daysBeforeYear (y + 1) := by
    rw [← hy]
    refine yearFrom_last ?_
    simp only [daysBeforeYear]
    omega
  rw [daysBeforeYear_succ, hleap] at last
  obtain ⟨low, high⟩ := hm ▸ monthFrom_range leap (day - daysBeforeYear y) (top := 12) (by omega)
  have monthBegun : daysBeforeMonth leap m ≤ day - daysBeforeYear y := hm ▸ monthFrom_begun leap _ 12
  have monthLast : day - daysBeforeYear y < daysBeforeMonth leap (m + 1) := by
    rw [← hm]
    refine monthFrom_last ?_
    show day - daysBeforeYear y < daysBeforeMonth leap 13
    omega
  rw [daysBeforeMonth_succ leap low high] at monthLast
  rw [fields]
  constructor
  · constructor <;> dsimp only
    case day => rw [hleap]; omega
    all_goals omega
  · simp only [Calendar.dayNumber, hleap, Nat.add_sub_cancel_left]
    omega

/-- The date and time of a second convert back to it (R74). -/
theorem secondOfCalendar_calendarOfSecond {n : Nat} (range : n < 3155760000) : secondOfCalendar (calendarOfSecond n) = n := by
  have time : (calendarOfSecond n).timeOfDay = n % 86400 := by
    simp only [calendarOfSecond, Calendar.timeOfDay]
    omega
  rw [secondOfCalendar_eq, (calendarOfSecond_valid range).2, time]
  omega

/-- Settles O29: the searches find the one year and month that hold a day, so that each conversion undoes the other. -/
theorem calendarConversionIsInvertible : Obligations.CalendarConversionIsInvertible := by
  refine ⟨fun n range => ⟨?_, secondOfCalendar_calendarOfSecond range, rfl⟩, fun c fraction accepted => ?_⟩
  · exact calendarError_eq_none_iff.mpr ⟨(calendarOfSecond_valid range).1, Nat.zero_le _⟩
  · obtain ⟨valid, -⟩ := calendarError_eq_none_iff.mp accepted
    exact ⟨valid.secondOfCalendar_lt, valid.calendarOfSecond_secondOfCalendar⟩

end Sys2Proof.Machine
end

section
/-! SUPPORT. The commands and steps of the wall clock (Chapter 4): reading and setting it, the slew of an ADJUST_TIME, the wait of
a SNAP_TIME, and the rounding of a snap. -/

namespace Sys2Proof.Machine

/-! ### Whether there is wall time, and the wall range -/

theorem active_eq_not_unset (w : Wall) : (!w.active) = decide (w.state = .unset) := by
  cases e : w.state <;> simp [Wall.active, e]

/-- A wall instant is out of range exactly when it lies below 0 or beyond the last FU (R75, R76). -/
theorem wallPlus_isNone_iff {s : State} {delta : Int} : (s.wallPlus delta).isNone = true ↔
    (s.wallNow : Int) + delta < 0 ∨ 3155760000 * 2 ^ 20 - 1 < (s.wallNow : Int) + delta := by
  refine ⟨fun absent => ?_, fun outside => by rw [wallPlus_eq_none outside]; rfl⟩
  by_contra within
  obtain ⟨new, sum⟩ : ∃ new : Nat, (new : Int) = (s.wallNow : Int) + delta :=
    ⟨((s.wallNow : Int) + delta).toNat, by omega⟩
  rw [wallPlus_eq_some sum (by simp only [Config.wallLast]; omega)] at absent
  cases absent

/-! ### Rounding a snap -/

/-- Settles O30: adding half a unit before the division makes it round to the nearest multiple. -/
theorem snapRoundsToTheNearest : Obligations.SnapRoundsToTheNearest := by
  intro u t
  cases u with
  | second =>
    simp only [SnapUnit.round, SnapUnit.length, Config.secondFU]
    omega
  | minute =>
    simp only [SnapUnit.round, SnapUnit.length, Config.minuteFU]
    omega

/-! ### Reading and setting the clock -/

/-- Settles O31: the owner answers from the state as it stands. -/
theorem readTimeReportsBothClocks : Obligations.ReadTimeReportsBothClocks := by
  intro s c hold
  refine carryOut_unchanged (owner := readTimeOwner) hold ?_
  have wall : (if s.wall.active = true then some s.wallNow else none) =
      if s.wall.state = .unset then none else some ((s.time.mono : Int) + s.wall.offset).toNat := by
    cases e : s.wall.state <;> simp [Wall.active, e, State.wallNow]
  rw [readTimeOwner, wall]
  rfl

/-- Without wall time, a wall change places the clock and hands the scheduler nothing (R73). -/
theorem wallChange_unset {s : State} (unset : s.wall.state = .unset) (new : Nat) :
    wallChange s new = (s.placedAt new, s.adjustEnds .superseded) := by
  have inactive : (!s.wall.active) = true := by rw [active_eq_not_unset, unset]; rfl
  unfold wallChange
  simp only [inactive, if_true]
  rfl

/-- Wall time begins: the clock is placed at the instant, and nothing else changes. -/
theorem placedAt_begun {s : State} (slew : s.wall.slew = none) (adjust : s.cmd.adjust = none) (new : Nat) :
    s.placedAt new = { s with wall := { s.wall with
      state := .running, offset := (new : Int) - (s.time.mono : Int), lastSecond := new / 2 ^ 20 } } := by
  unfold State.placedAt State.stopSlew
  rw [← slew, ← adjust]
  rfl

/-- SET_TIME with an invalid field is answered with its number and changes nothing (R74, R170). -/
theorem exec_setTime_invalid {s : State} {c : InHand} {n : Nat} (hold : s.holds c 0x09)
    (invalid : calendarError (setTimeFields c.record) (le32 c.record 12).toNat = some n) :
    exec .setTime s = .next (s.answered c .badField (some n) .none) := by
  refine carryOut_unchanged (owner := setTimeOwner) hold ?_
  rw [setTimeOwner, setTimeInstant, invalid]
  rfl

/-- SET_TIME with valid fields begins wall time at their instant where there was none (R73, R74). -/
theorem exec_setTime_begins {s : State} {c : InHand} (hold : s.holds c 0x09)
    (valid : calendarError (setTimeFields c.record) (le32 c.record 12).toNat = none) (unset : s.wall.state = .unset)
    (slew : s.wall.slew = none) (adjust : s.cmd.adjust = none) :
    let new := secondOfCalendar (setTimeFields c.record) * 2 ^ 20 + (le32 c.record 12).toNat
    exec .setTime s = .next
      ({ s with wall := { s.wall with state := .running, offset := (new : Int) - (s.time.mono : Int),
                                      lastSecond := new / 2 ^ 20 } }.answered c .ok none (.wallChanged new none)) := by
  intro new
  have asked : setTimeInstant c.record = .ok new := by
    rw [setTimeInstant, valid]
    rfl
  have inactive : s.wall.active = false := by simp [Wall.active, unset]
  have ended : s.adjustEnds .superseded = [] := by simp [State.adjustEnds, slew]
  rw [← placedAt_begun slew adjust]
  refine congrArg Host.Outcome.next (carryOut_now 0x09 s (s.placedAt new) c setTimeOwner .ok none _ hold ?_ rfl)
  rw [setTimeOwner, asked]
  simp only [inactive, changeWith, wallChange_unset unset, ended]
  rfl

/-- Settles O32: the rows of table 4.3 in their order, and the instant whose calendar fields the command names. -/
theorem setTimeBeginsWallTime : Obligations.SetTimeBeginsWallTime := by
  intro s c hold year month day hour minute second fraction length d accepts
  have fields : setTimeFields c.record = d := rfl
  have days : daysOfMonth (leapYear year) month = length := by simp [daysOfMonth, leapYear, length]
  have rows (n : Nat) : accepts n ↔ d.Accepts fraction n := by
    match n with
    | 3 =>
      show 1 ≤ day ∧ day ≤ length ↔ 1 ≤ day ∧ day ≤ daysOfMonth (leapYear year) month
      rw [days]
    | 0 | 1 | 2 | 4 | 5 | 6 | 7 | n + 8 => exact Iff.rfl
  refine ⟨fields, fun n refused before => ?_, fun all => ?_⟩
  · have invalid : calendarError d fraction = some n :=
      calendarError_refuses n (mt (rows n).mpr refused) fun m earlier => (rows m).mp (before m earlier)
    exact ⟨invalid, exec_setTime_invalid hold invalid⟩
  · have valid : d.Valid := ⟨all 1, all 2, (rows 3).mp (all 3), all 4, all 5, all 6⟩
    have within : fraction ≤ 1048575 := all 7
    have accepted : calendarError d fraction = none := calendarError_eq_none_iff.mpr ⟨valid, within⟩
    refine ⟨accepted, fun unset slew adjust =>
      ⟨secondOfCalendar d, valid.calendarOfSecond_secondOfCalendar, valid.secondOfCalendar_lt, ?_⟩⟩
    have begins := exec_setTime_begins hold accepted unset slew adjust
    have whole : (secondOfCalendar d * 2 ^ 20 + fraction) / 2 ^ 20 = secondOfCalendar d := by omega
    simp only [fields] at begins
    rw [begins, whole]

/-! ### Commands that are deferred -/

/-- The carry-out of a command that its owner defers, with no report: the command unit is free for a fetch (R160, R173). -/
theorem carryOut_later {opcode : Byte} {s t : State} {c : InHand} {owner : InHand → State → Answer} (hold : s.holds c opcode)
    (answer : owner c s = { state := t, reply := .later, ended := [] }) (quiet : t.reports = s.reports) :
    carryOut opcode s owner = (t.setCmd { t.cmd with state := .idle }).fetchStarted := by
  rw [carryOut_holds opcode s c owner hold, answer, ← quiet]
  exact finish_later c t

/-- The completion of a deferred command alone joins the end of the queue, and the write of it starts in an empty one (R174,
R181, R184). -/
theorem writeOnAcceptance_acceptAll_one {s t : State} (c : Completion) (quiet : t.reports = s.reports) :
    writeOnAcceptance s.queued (acceptAll s.queued t [c]) = s.writeStarted { t with reports := { s.reports with
      records := s.reports.records ++ [.completion c], reservations := s.reports.reservations - 1 } } := by
  have accepted := acceptCompletion_quiet s.queued t c (by rw [quiet]; rfl)
  rw [quiet] at accepted
  rw [writeOnAcceptance_eq]
  exact congrArg s.writeStarted accepted

/-! ### ADJUST_TIME -/

/-- Settles O35: the checks of R76 in their order, and the slew that begins. -/
theorem adjustTimeBeginsASlew : Obligations.AdjustTimeBeginsASlew := by
  intro s c hold delta
  have owner : adjustTimeOwner c s =
      if delta = 0 ∨ 2 ^ 30 < delta.natAbs then badField s 1 .none
      else if s.wall.state = .unset then refuseWith s .wallUnset .none
      else if s.wall.slew.isSome = true then refuseWith s .busy .none
      else if (s.wallNow : Int) + delta < 0 ∨ 3155760000 * 2 ^ 20 - 1 < (s.wallNow : Int) + delta then badField s 1 .none
      else if s.port.state = .draining then refuseWith s .cancelled (.applied 0)
      else { state := beginSlew s c delta, reply := .later, ended := [] } := by
    unfold adjustTimeOwner
    simp only [active_eq_not_unset, decide_eq_true_eq, wallPlus_isNone_iff]
    rfl
  split_ifs at owner ⊢
  · exact carryOut_unchanged hold owner
  · exact carryOut_unchanged hold owner
  · exact carryOut_unchanged hold owner
  · exact carryOut_unchanged hold owner
  · exact carryOut_unchanged hold owner
  · exact congrArg Host.Outcome.next (carryOut_later hold owner rfl)

/-! ### SNAP_TIME with source NEXT_REF -/

theorem snapRequestOf_nextRef {r : Record} {u : SnapUnit} (unit : snapUnitOf (byteAt r 4).toNat = some u)
    (source : byteAt r 5 = 1) : snapRequestOf r =
      if byteAt r 6 = 0 then .error 3 else .ok (.nextRef u (byteAt r 6).toNat) := by
  rw [snapRequestOf, unit, source]
  simp only [byte_eq_iff]
  rfl

/-- The wait end answers the pending SNAP with TIMEOUT, and it becomes absent (R85). -/
theorem exec_waitEnd_due {s : State} {n : Snap} {d : Deferred} (on : s.time.exhausted = false) (pending : s.wall.snap = some n)
    (here : n.waitEnd = s.time.mono) (deferred : s.cmd.snap = some d) :
    exec .waitEnd s = .next (writeOnAcceptance s.queued
      (acceptAll s.queued s.dropSnap [d.completion opSnap .timeout none .noChange])) := by
  have due : s.waitEndDue = true := by simp [State.waitEndDue, on, pending, here, State.mono]
  have ended : s.snapEnds .timeout none .noChange = [d.completion opSnap .timeout none .noChange] := by
    simp [State.snapEnds, pending, deferred]
  show execWaitEnd s = _
  rw [execWaitEnd, if_pos due, ended]

/-- Settles O36: table 4.5 for NEXT_REF in its order, and the wait end. -/
theorem snapTimeWaitsForTheReferenceOrTimesOut : Obligations.SnapTimeWaitsForTheReferenceOrTimesOut := by
  refine ⟨fun s c u hold unit source => ?_, fun s n d on pending here deferred => ?_⟩
  · have valid : snapUnitOf (byteAt c.record 4).toNat = some u := by
      rcases unit with ⟨e, rfl⟩ | ⟨e, rfl⟩ <;> rw [e] <;> rfl
    have owner : snapTimeOwner c s =
        if byteAt c.record 6 = 0 then badField s 3 .noChange
        else if s.time.disc.state = .off then refuseWith s .noReference .none
        else if s.wall.snap.isSome = true then refuseWith s .busy .none
        else if s.wall.state = .unset then refuseWith s .wallUnset .none
        else if s.port.state = .draining then refuseWith s .cancelled .noChange
        else { state := beginSnap s c u (byteAt c.record 6).toNat, reply := .later, ended := [] } := by
      rw [snapTimeOwner, snapRequestOf_nextRef valid source]
      by_cases zero : byteAt c.record 6 = 0
      · rw [if_pos zero, if_pos zero]
      · rw [if_neg zero, if_neg zero]
        simp only [snapNextRef, active_eq_not_unset, decide_eq_true_eq]
    split_ifs at owner ⊢
    · exact carryOut_unchanged hold owner
    · exact carryOut_unchanged hold owner
    · exact carryOut_unchanged hold owner
    · exact carryOut_unchanged hold owner
    · exact carryOut_unchanged hold owner
    · exact congrArg Host.Outcome.next (carryOut_later hold owner rfl)
  · rw [exec_waitEnd_due on pending here deferred]
    exact congrArg Host.Outcome.next (writeOnAcceptance_acceptAll_one _ rfl)

/-! ### The slew step -/

/-- At its instant a step is due unless the range ends there, or would end by it (R78, R88, log entry 9). -/
theorem stepDue_iff {s : State} {w : Slew} (on : s.time.exhausted = false) (slewing : s.wall.state = .slewing)
    (slew : s.wall.slew = some w) (here : w.nextStep = s.time.mono) (left : w.remainder ≠ 0) : s.stepDue = true ↔
    ¬ 3155760000 * 2 ^ 20 - 1 ≤ s.wallNow + (if 0 < w.remainder then 1 else 0) := by
  have falls : s.stepHere = some w := by simp [State.stepHere, on, slewing, slew, State.mono, here]
  rw [State.stepDue, State.rangeEndHere, falls]
  simp only [Option.isSome_some, Option.any_some, Bool.true_and, Bool.not_eq_true', Bool.or_eq_false_iff,
    Bool.and_eq_false_iff, decide_eq_false_iff_not, Config.wallLast]
  split <;> omega


theorem remainder_sign {w : Slew} (left : w.remainder ≠ 0) : w.remainder.sign = if 0 < w.remainder then 1 else -1 := by
  split
  · next forward => exact Int.sign_eq_one_of_pos forward
  · exact Int.sign_eq_neg_one_of_neg (by omega)

theorem exec_slewStep_idle {s : State} (idle : ¬ s.stepDue = true) : exec .slewStep s = .next s :=
  congrArg Host.Outcome.next (if_neg idle)

theorem exec_slewStep_due {s : State} {w : Slew} (due : s.stepDue = true) (slew : s.wall.slew = some w) :
    exec .slewStep s = .next (if w.remainder - w.remainder.sign = 0 then
      writeOnAcceptance s.queued (acceptAll s.queued (s.stepped w).stopSlew ((s.stepped w).adjustEnds .ok))
      else s.stepped w) := by
  show execSlewStep s = _
  rw [execSlewStep, if_pos due, slew]
  rfl

/-- Settles O37: a range end leaves the step untaken, and the step that leaves nothing completes the ADJUST_TIME. -/
theorem slewStepMovesTheOffset : Obligations.SlewStepMovesTheOffset := by
  intro s w on slewing slew here left ends sign
  have due := stepDue_iff on slewing slew here left
  have towards : w.remainder.sign = sign := remainder_sign left
  refine ⟨fun ended => exec_slewStep_idle fun step => due.mp step ended, fun inside more => ?_,
    fun inside last d deferred => ?_⟩
  · rw [exec_slewStep_due (due.mpr inside) slew, towards, if_neg (sub_ne_zero.mpr more), State.stepped, Slew.step, towards]
    rfl
  · have answer : (s.stepped w).adjustEnds .ok = [d.completion opAdjust .ok none (.applied (w.applied + sign))] := by
      rw [← towards]
      simp [State.adjustEnds, State.stepped, Slew.step, deferred]
    have stopped : (s.stepped w).stopSlew =
        { s with wall := { s.wall with state := .running, offset := s.wall.offset + sign, slew := none }
                 cmd := { s.cmd with adjust := none } } := by
      rw [← towards]
      simp only [State.stopSlew, State.stepped, State.setWall_wall, slewing]
      rfl
    rw [exec_slewStep_due (due.mpr inside) slew, towards, if_pos (sub_eq_zero.mpr last), answer, stopped]
    exact congrArg Host.Outcome.next (writeOnAcceptance_acceptAll_one _ rfl)

end Sys2Proof.Machine
end

section
/-! SUPPORT. The writes of ENABLE (R149, R152, R154, R155): the validation of the rings, and the entry into DRAINING with the
completions that it brings (R90). -/

namespace Sys2Proof.Machine

/-! ### The validation of the rings -/

theorem baseValid_iff (base : Word) : baseValid base = true ↔ base.toNat % 64 = 0 := by simp [baseValid]

/-- The ring sizes of R152 are the powers of two from 16 to 4,096. -/
theorem mem_ringSizes_iff (n : Nat) :
    n ∈ [16, 32, 64, 128, 256, 512, 1024, 2048, 4096] ↔ ∃ k, 4 ≤ k ∧ k ≤ 12 ∧ n = 2 ^ k := by
  constructor
  · intro mem
    have powers : [16, 32, 64, 128, 256, 512, 1024, 2048, 4096] = (List.range' 4 9).map (2 ^ ·) := by decide
    rw [powers] at mem
    obtain ⟨k, range, rfl⟩ := List.mem_map.mp mem
    rw [List.mem_range'_1] at range
    exact ⟨k, by omega, by omega, rfl⟩
  · rintro ⟨k, low, high, rfl⟩
    interval_cases k <;> decide

theorem sizeValid_iff (base size : Word) : sizeValid base size = true ↔
    (∃ k, 4 ≤ k ∧ k ≤ 12 ∧ size.toNat = 2 ^ k) ∧ base.toNat + 32 * size.toNat ≤ 2 ^ 32 := by
  rw [sizeValid, Bool.and_eq_true, List.contains_iff_mem, mem_ringSizes_iff, decide_eq_true_eq]
  rfl

/-- The first ring register that fails, by what R152 asks of each. -/
theorem ringError_eq (p : Port) : p.ringError =
    if baseValid p.crBase then
      if sizeValid p.crBase p.crSize then
        if baseValid p.rrBase then
          if sizeValid p.rrBase p.rrSize then .none else .rrSize
        else .rrBase
      else .crSize
    else .crBase := by
  simp only [Port.ringError, Bool.not_eq_true', ← Bool.not_eq_true, ite_not]

/-! ### ENABLE written as 1 -/

theorem exec_enableWrite1_elsewhere {s : State} (elsewhere : s.port.state ≠ .disabled) : exec .enableWrite1 s = .next s :=
  congrArg Host.Outcome.next (if_neg elsewhere)

/-- A ring register that fails is named, and nothing else changes (R150, R152). -/
theorem exec_enableWrite1_names {s : State} {e : ConfigError} (disabled : s.port.state = .disabled)
    (error : s.port.ringError = e) (fails : e ≠ .none) :
    exec .enableWrite1 s = .next { s with port := { s.port with configError := e } } := by
  refine congrArg Host.Outcome.next ?_
  rw [writeEnable1, if_pos disabled, error]
  cases e
  case none => exact absurd rfl fails
  all_goals rfl

/-- The port with the indices at 0 and the phase at 1, as a valid ENABLE leaves it (R152). -/
def Port.cleared (p : Port) : Port :=
  { p with configError := .none, crHead := 0, crTail := 0, rrHead := 0, rrTail := 0, phase := true }

/-- With valid rings the port is cleared and enters RUNNING, or halts when mono time is exhausted (R55, R152). -/
theorem exec_enableWrite1_valid {s : State} (disabled : s.port.state = .disabled) (valid : s.port.ringError = .none) :
    exec .enableWrite1 s = .next (if s.time.exhausted then halt (s.setPort s.port.cleared) .timelineEnd 0
      else s.setPort { s.port.cleared with state := .running }) := by
  refine congrArg Host.Outcome.next ?_
  rw [writeEnable1, if_pos disabled, valid]
  rfl

/-! ### ENABLE written as 0 -/

theorem exec_enableWrite0_elsewhere {s : State} (elsewhere : s.port.state ≠ .running) : exec .enableWrite0 s = .next s :=
  congrArg Host.Outcome.next (if_neg elsewhere)

/-- What the entry into DRAINING answers: a slew and a pending SNAP, CANCELLED (R90). -/
def State.drainAnswers (s : State) : List Completion := s.adjustEnds .cancelled ++ s.snapEnds .cancelled none .noChange

/-- The part once it has entered DRAINING and answered, before a write starts and the drain is checked (R90, R154). -/
def State.drainEntered (s : State) : State :=
  acceptAll s.queued (s.setPort { s.port with state := .draining }).stopSlew.dropSnap s.drainAnswers

theorem drainEntered_acceptsFrom (s : State) : (s.setPort { s.port with state := .draining }).stopSlew.dropSnap.AcceptsFrom
    s.drainEntered s.queued s.drainAnswers := acceptAll_acceptsFrom s.queued s.drainAnswers _ le_rfl

/-- A draining port is DISABLED when nothing is outstanding; otherwise the write of a record accepted into an empty queue has
started (R155, R184). -/
theorem checkDrain_writeStarted {s t : State} (draining : t.port.state = .draining) : checkDrain (s.writeStarted t) =
    if t.reports.records = [] ∧ t.reports.reservations = 0 ∧ t.port.fetch = none then
      t.setPort { t.port with state := .disabled }
    else s.writeStarted t := by
  rw [← writeOnAcceptance_eq]
  unfold checkDrain
  simp only [writeOnAcceptance_port, writeOnAcceptance_records, writeOnAcceptance_reservations, draining, true_and]
  split
  · next drained =>
    have unwritten : writeOnAcceptance s.queued t = t := by
      unfold writeOnAcceptance State.frontWrite
      rw [drained.1, ite_self]
      rfl
    rw [unwritten]
  · rfl

theorem exec_enableWrite0_running {s : State} (running : s.port.state = .running) : exec .enableWrite0 s = .next
    (if s.drainEntered.reports.records = [] ∧ s.drainEntered.reports.reservations = 0 ∧ s.port.fetch = none then
      s.drainEntered.setPort { s.drainEntered.port with state := .disabled } else s.writeStarted s.drainEntered) := by
  have port := (drainEntered_acceptsFrom s).port
  have fetch : s.drainEntered.port.fetch = s.port.fetch := by rw [port]; rfl
  refine congrArg Host.Outcome.next ?_
  rw [writeEnable0, if_pos running, ← fetch, ← checkDrain_writeStarted (congrArg Port.state port), ← writeOnAcceptance_eq]
  rfl

/-- The records that answer a slew and a pending SNAP with CANCELLED, in a sound state (R90). -/
theorem drainAnswers_map {s : State} (queue : s.QueueSound) : s.drainAnswers.map Report.completion =
    (match s.wall.slew, s.cmd.adjust with
      | some w, some d => [.completion { tag := d.tag, opcode := 0x0B, ringIndex := d.index, status := .cancelled,
                                         fieldNo := none, results := .applied w.applied }]
      | _, _ => []) ++
    (match s.cmd.snap with
      | some d => [.completion { tag := d.tag, opcode := 0x0C, ringIndex := d.index, status := .cancelled,
                                 fieldNo := none, results := .noChange }]
      | none => []) := by
  have together := queue.snap
  rw [State.drainAnswers, List.map_append, State.adjustEnds, State.snapEnds]
  congr 1
  · cases s.wall.slew <;> cases s.cmd.adjust <;> rfl
  · cases deferred : s.cmd.snap with
    | none => cases s.wall.snap <;> rfl
    | some d =>
      rw [deferred] at together
      obtain ⟨n, pending⟩ := Option.isSome_iff_exists.mp together.symm
      rw [pending]
      rfl

theorem drainAnswers_length {s : State} (queue : s.QueueSound) : s.drainAnswers.length =
    (if s.wall.slew.isSome then 1 else 0) + (if s.cmd.snap.isSome then 1 else 0) := by
  rw [State.drainAnswers, List.length_append, adjustEnds_length, snapEnds_length, queue.adjust, ← queue.snap]
  simp only [and_self]

/-- Settles O58: the checks of R152 in their order, and the entry into DRAINING. -/
theorem enableWritesMoveThePort : Obligations.EnableWritesMoveThePort := by
  intro s sized crBase rrBase crSize rrSize names cleared
  have cb : baseValid s.port.crBase = true ↔ crBase := baseValid_iff s.port.crBase
  have cs : sizeValid s.port.crBase s.port.crSize = true ↔ crSize := sizeValid_iff s.port.crBase s.port.crSize
  have rb : baseValid s.port.rrBase = true ↔ rrBase := baseValid_iff s.port.rrBase
  have rs : sizeValid s.port.rrBase s.port.rrSize = true ↔ rrSize := sizeValid_iff s.port.rrBase s.port.rrSize
  have error := ringError_eq s.port
  refine ⟨exec_enableWrite1_elsewhere, fun disabled => ⟨fun bad => ?_, fun c bad => ?_, fun c k bad => ?_, fun c k r bad => ?_,
    fun c k r l on => ?_, fun c k r l exhausted => ?_⟩, exec_enableWrite0_elsewhere, fun running queue => ?_⟩
  · rw [if_neg (mt cb.mp bad)] at error
    exact exec_enableWrite1_names disabled error (by rintro ⟨⟩)
  · rw [if_pos (cb.mpr c), if_neg (mt cs.mp bad)] at error
    exact exec_enableWrite1_names disabled error (by rintro ⟨⟩)
  · rw [if_pos (cb.mpr c), if_pos (cs.mpr k), if_neg (mt rb.mp bad)] at error
    exact exec_enableWrite1_names disabled error (by rintro ⟨⟩)
  · rw [if_pos (cb.mpr c), if_pos (cs.mpr k), if_pos (rb.mpr r), if_neg (mt rs.mp bad)] at error
    exact exec_enableWrite1_names disabled error (by rintro ⟨⟩)
  · rw [if_pos (cb.mpr c), if_pos (cs.mpr k), if_pos (rb.mpr r), if_pos (rs.mpr l)] at error
    rw [exec_enableWrite1_valid disabled error, on]
    rfl
  · rw [if_pos (cb.mpr c), if_pos (cs.mpr k), if_pos (rb.mpr r), if_pos (rs.mpr l)] at error
    refine ⟨_, exec_enableWrite1_valid disabled error, ?_⟩
    rw [exhausted]
    have unhalted : cleared.state ≠ .halted := by
      rw [show cleared.state = .disabled from disabled]
      rintro ⟨⟩
    exact halt_haltedAs (s.setPort cleared) .timelineEnd 0 unhalted
  · have entered := drainEntered_acceptsFrom s
    have gains := entered.gains (s := s) (reports := []) (List.append_nil _).symm rfl
    rw [List.nil_append, drainAnswers_map queue, drainAnswers_length queue] at gains
    refine ⟨s.drainEntered, exec_enableWrite0_running running, entered.slots, entered.sched, entered.chans, entered.caps,
      entered.time, entered.irq, ?_, entered.cmd, entered.port, entered.write, entered.lost, gains⟩
    rw [entered.wall]
    rfl

end Sys2Proof.Machine
end

section
/-! SUPPORT. One output channel (Chapter 6): what it makes of an arrival by its busy policy (R110 to R113), and what a phase end
makes of it (R115 to R118). -/

namespace Sys2Proof.Machine

/-! ### Arrivals -/

section
variable {c : Channel} {ch : Fin 8} {now : Nat} {i : FireInst}

theorem Channel.arrive_disabled (state : c.state = .disabled) :
    c.arrive ch now i = { channel := c, outcome := .channelOff, dones := [] } := by simp [Channel.arrive, state]

theorem Channel.arrive_idle (state : c.state = .idle) :
    c.arrive ch now i = { channel := c.start now i, outcome := .started, dones := [] } := by simp [Channel.arrive, state]

/-- One runs in the states PULSE and SPACE alone (R107). -/
theorem Channel.Sound.running_iff (sound : c.Sound) : c.running ≠ none ↔ c.state = .pulse ∨ c.state = .space := by
  rw [ne_eq, sound.resting]
  cases c.state <;> simp

variable (runs : c.state = .pulse ∨ c.state = .space)
include runs

theorem Channel.arrive_queued (policy : i.busy = .queue) (room : c.queue.length < 8) :
    c.arrive ch now i = { channel := { c with queue := c.queue ++ [i] }, outcome := .queued, dones := [] } := by
  rcases runs with state | state <;> simp [Channel.arrive, state, policy, room]

theorem Channel.arrive_dropped (policy : i.busy = .queue ∧ ¬ c.queue.length < 8 ∨ i.busy = .drop) :
    c.arrive ch now i = { channel := c, outcome := .dropped, dones := [] } := by
  rcases policy with ⟨policy, full⟩ | policy <;> rcases runs with state | state
  · simp only [Channel.arrive, state, policy, if_neg full]
  · simp only [Channel.arrive, state, policy, if_neg full]
  · simp only [Channel.arrive, state, policy]
  · simp only [Channel.arrive, state, policy]

theorem Channel.arrive_replaces (policy : i.busy = .replace) :
    c.arrive ch now i = { channel := { c with running := none }.start now i, outcome := .started,
                          dones := c.abortReports ch now .aborted } := by
  rcases runs with state | state <;> simp only [Channel.arrive, state, policy]

theorem Channel.arrive_flushes (policy : i.busy = .flush) :
    c.arrive ch now i = { channel := (c.emptied .idle).start now i, outcome := .started,
                          dones := c.clearReports ch now } := by
  rcases runs with state | state <;> simp only [Channel.arrive, state, policy]

end

/-- A start leaves the queue alone, and the one started runs from that instant (R115). -/
theorem Channel.start_running (c : Channel) (now : Nat) (i : FireInst) : (c.start now i).queue = c.queue ∧
    ∃ r, (c.start now i).running = some r ∧ r.inst = i ∧ r.start = now := by
  unfold Channel.start
  split
  · exact ⟨rfl, _, rfl, rfl, rfl⟩
  · exact ⟨rfl, _, rfl, rfl, rfl⟩

/-- The report of a running one ended early, when its done reports are on (R121, R125). -/
theorem Channel.abortReports_eq (c : Channel) (ch : Fin 8) (now : Nat) (reason : EndReason) :
    c.abortReports ch now reason = match c.running with
      | some r =>
        if r.inst.doneReports then
          [{ handle := r.inst.handle, tag := r.inst.tag, channel := some ch, reason := reason, start := some r.start,
             ending := now, pulses := r.pulses, followOn := .none }]
        else []
      | none => [] := by
  unfold Channel.abortReports
  cases c.running with
  | none => rfl
  | some r => simp [FireInst.done, FollowOutcome.failed]

/-- Settles O27: one equation of the arrival for each row of table 6.2. -/
theorem admissionFollowsTheBusyPolicy : Obligations.AdmissionFollowsTheBusyPolicy := by
  intro c ch now i sound a aborted discarded
  have aborts : c.abortReports ch now .aborted = aborted := c.abortReports_eq ch now .aborted
  have clears : c.clearReports ch now = aborted ++ discarded := by
    rw [Channel.clearReports, aborts, discardReports_eq]
  refine ⟨fun state => ?_, fun state => ?_, fun running => ?_⟩
  · simp only [a, Channel.arrive_disabled state, and_self]
  · have empty := sound.alone (sound.resting.mpr (.inr state))
    obtain ⟨queue, started⟩ := c.start_running now i
    simp only [a, Channel.arrive_idle state]
    exact ⟨trivial, queue.trans empty, trivial, started⟩
  · have runs := sound.running_iff.mp running
    refine ⟨fun policy room => ?_, fun policy => ?_, fun policy => ?_, fun policy => ?_⟩
    · simp only [a, Channel.arrive_queued runs policy room, and_self]
    · have dropped := policy.imp_left (And.imp_right fun (full : _ = 8) => full.not_lt)
      simp only [a, Channel.arrive_dropped runs dropped, and_self]
    · simp only [a, Channel.arrive_replaces runs policy]
      exact ⟨trivial, (Channel.start_running _ now i).1, aborts, (Channel.start_running _ now i).2⟩
    · simp only [a, Channel.arrive_flushes runs policy]
      exact ⟨trivial, (Channel.start_running _ now i).1, clears, (Channel.start_running _ now i).2⟩

/-! ### Phase ends -/

section
variable {c : Channel} {r : Running} {p sp n : Nat} (now : Nat) (running : c.running = some r)
  (train : r.inst.operation = some (.train p sp n))
include running train

theorem Channel.nextPhase_pulse (state : c.state = .pulse) :
    c.nextPhase now = some { c with state := .space, running := some { r with phaseEnd := now + sp } } := by
  simp only [Channel.nextPhase, running, train, if_pos state]

theorem Channel.nextPhase_space (state : c.state = .space) (more : r.pulses < n) : c.nextPhase now =
    some { c with state := .pulse, running := some { r with pulses := r.pulses + 1, phaseEnd := now + p } } := by
  simp [Channel.nextPhase, running, train, state, more]

end

/-- A PHASE_END that does not complete the running one changes its channel alone (R117). -/
theorem exec_phaseEnd_next {s : State} {ch : Fin 8} {r : Running} {d : Channel} (on : s.time.exhausted = false)
    (running : (s.chan ch).running = some r) (due : r.phaseEnd = s.time.mono)
    (next : (s.chan ch).nextPhase s.time.mono = some d) : exec (.phaseEnd ch) s = .next (s.withChan ch d) := by
  have now : (!s.time.exhausted && (s.chan ch).phaseDue s.mono) = true := by
    simp [on, Channel.phaseDue, running, due, State.mono]
  have next : (s.chan ch).nextPhase s.mono = some d := next
  refine congrArg Host.Outcome.next ?_
  rw [if_pos now, next]
  rfl

/-- Settles O48: the two phases of a train, and the completion without a follow-on request. -/
theorem phaseEndsRunTheInstance : Obligations.PhaseEndsRunTheInstance := by
  intro s ch r on running due found
  refine ⟨fun p sp n train => ⟨fun pulse => ?_, fun space more => ?_⟩, fun complete unfollowed => ?_⟩
  · exact exec_phaseEnd_next on running due (Channel.nextPhase_pulse _ running train pulse)
  · exact exec_phaseEnd_next on running due (Channel.nextPhase_space _ running train space more)
  · refine ⟨found.startNext s.time.mono, Channel.startNext_succeededBy _ _, ?_⟩
    rw [exec_phaseEnd_complete on running due complete (followOf_none unfollowed _), offerDones_done]
    simp only [FollowOutcome.failed, Bool.or_false]
    rfl

end Sys2Proof.Machine
end

section
/-! SUPPORT. CONFIG_CHANNEL, FLUSH_CHANNEL and CHANNEL_STATUS (R127 to R129): their fields, and the clearing of a channel with
its reports and the answer among them (R123). -/

namespace Sys2Proof.Machine

/-! ### The fields -/

section
variable {r : Record}

theorem channelNumberOf_invalid (bad : 8 ≤ (byteAt r 4).toNat) : channelNumberOf r = .error 1 := by
  rw [channelNumberOf, below_of_le bad]

theorem channelNumberOf_valid {ch : Fin 8} (number : ch.val = (byteAt r 4).toNat) : channelNumberOf r = .ok ch := by
  rw [channelNumberOf, ← number, below_of_lt ch.isLt]

theorem levelOf_eq (n : Nat) : levelOf n = if 1 < n then none else some (if n = 1 then .high else .low) := by
  match n with
  | 0 | 1 => rfl
  | n + 2 => simp [levelOf]

theorem channelFieldsOf_badNumber (bad : 8 ≤ (byteAt r 4).toNat) : channelFieldsOf r = .error 1 := by
  rw [channelFieldsOf, channelNumberOf_invalid bad]

/-- The fields of CONFIG_CHANNEL with a valid channel number, checked in their order (R127). -/
theorem channelFieldsOf_eq {ch : Fin 8} (number : ch.val = (byteAt r 4).toNat) : channelFieldsOf r =
    if 1 < (byteAt r 5).toNat then .error 2
    else if 1 < (byteAt r 6).toNat then .error 3
    else if 1 < (byteAt r 7).toNat then .error 4
    else .ok { channel := ch
               enable := decide ((byteAt r 5).toNat = 1)
               initial := if (byteAt r 6).toNat = 1 then .high else .low
               parked := if (byteAt r 7).toNat = 1 then .high else .low } := by
  rw [channelFieldsOf, channelNumberOf_valid number, flagOf_eq, levelOf_eq, levelOf_eq]
  split_ifs <;> rfl

end

/-! ### A channel set anew -/

section
variable {c : Channel} {f : ChannelFields}

theorem Channel.configure_unused (on : f.enable = true) (unused : c.state = .disabled ∨ c.state = .idle) :
    c.configure f = ({ c with state := .idle, level := f.initial, parked := f.parked }, .ok) := by
  rcases unused with state | state <;> simp [Channel.configure, on, state]

theorem Channel.configure_running (on : f.enable = true) (runs : c.state = .pulse ∨ c.state = .space) :
    c.configure f = ({ c with parked := f.parked }, .busy) := by
  rcases runs with state | state <;> simp [Channel.configure, on, state]

theorem Channel.configure_disables (off : f.enable = false) : c.configure f =
    ({ state := .disabled, level := f.parked, parked := f.parked, running := none, queue := [] }, .ok) := by
  simp [Channel.configure, off, Channel.emptied]

end

/-- CONFIG_CHANNEL with enable 1 ends nothing and reports nothing (R127). -/
theorem configChannelOwner_enables {s : State} {c : InHand} {f : ChannelFields} {after : Channel} {status : Status}
    (valid : channelFieldsOf c.record = .ok f) (on : f.enable = true)
    (configured : (s.chan f.channel).configure f = (after, status)) :
    configChannelOwner c s =
      { state := s.setChan f.channel after
        reply := .now status none (.channelSet (s.chan f.channel).state 0 0 after.level after.line)
        ended := [] } := by
  simp only [configChannelOwner, valid, configured, on, if_true]
  rfl

/-! ### The clearing of a channel -/

/-- A channel given anew, with the reports of what it held offered (R123, R127, R128). -/
def State.cleared (s : State) (ch : Fin 8) (after : Channel) : State :=
  offerDones (s.setChan ch after) ((s.chan ch).clearReports ch s.mono)

theorem cleared_offersFrom (s : State) (ch : Fin 8) (after : Channel) :
    (s.setChan ch after).OffersFrom (s.cleared ch after) := offerDones_offersFrom _ _

theorem configChannelOwner_disables {s : State} {c : InHand} {f : ChannelFields} (valid : channelFieldsOf c.record = .ok f)
    (off : f.enable = false) : configChannelOwner c s =
      { state := s.cleared f.channel
          { state := .disabled, level := f.parked, parked := f.parked, running := none, queue := [] }
        reply := .now .ok none (.channelSet (s.chan f.channel).state (s.chan f.channel).runningCount
          (s.chan f.channel).queue.length f.parked f.parked)
        ended := [] } := by
  simp only [configChannelOwner, valid, Channel.configure_disables off, off]
  rfl

theorem flushChannelOwner_valid {s : State} {c : InHand} {ch : Fin 8} (valid : channelNumberOf c.record = .ok ch) :
    flushChannelOwner c s =
      { state := s.cleared ch (s.chan ch).flushed
        reply := .now .ok none (.channelFlushed (s.chan ch).runningCount (s.chan ch).queue.length)
        ended := [] } := by
  rw [flushChannelOwner, valid]
  rfl

theorem FireInst.done_length_le (i : FireInst) (channel : Option (Fin 8)) (reason : EndReason) (start : Option Nat)
    (ending pulses : Nat) (outcome : FollowOutcome) : (i.done channel reason start ending pulses outcome).length ≤ 1 := by
  unfold FireInst.done
  split <;> simp

/-- A clearing reports at most the running one and each that waits (R123). -/
theorem Channel.clearReports_length_le (c : Channel) (ch : Fin 8) (now : Nat) :
    (c.clearReports ch now).length ≤ c.queue.length + 1 := by
  have aborted : (c.abortReports ch now .aborted).length ≤ 1 := by
    unfold Channel.abortReports
    split
    · exact FireInst.done_length_le _ _ _ _ _ _ _
    · exact Nat.zero_le 1
  have discarded := List.length_filter_le (·.doneReports) c.queue
  rw [Channel.clearReports, List.length_append, discardReports_eq, List.length_map]
  omega

/-- A carry-out that clears its channel and answers OK: what it leaves alone, and what joins the report queue where there is
room for the nine reports that a clearing can bring (R123, R167, R180). -/
theorem carryOut_clears {opcode : Byte} {s : State} {c : InHand} {owner : InHand → State → Answer} {ch : Fin 8}
    {after : Channel} {results : Results} (hold : s.holds c opcode)
    (answer : owner c s = { state := s.cleared ch after, reply := .now .ok none results, ended := [] }) :
    ∃ t, (.next (carryOut opcode s owner) : Next) = .next (s.concluded t) ∧ s.keepsAllBut t ch ∧
      t.cmd = { s.cmd with state := .idle } ∧ t.chan ch = after ∧ c.answer .ok none results ∈ t.reports.records ∧
      t.reports.reservations = s.reports.reservations - 1 ∧
      (s.port.state = .running → s.reports.lost = 0 → s.reports.records.length + s.reports.reservations + 9 ≤ 32 →
        (s.chan ch).queue.length ≤ 8 →
        s.gains t (((s.chan ch).clearReports ch s.time.mono).map .done ++ [c.answer .ok none results]) 1) := by
  have told := cleared_offersFrom s ch after
  have a := acceptAll_acceptsFrom s.queued [c.completion .ok none results] (s.cleared ch after) told.schedulesFrom.queued_le
  have chans := a.chans.trans told.chans
  refine ⟨_, carryOut_concluded hold answer, ⟨fun k other => ?_, a.slots.trans told.slots, a.sched.trans told.sched,
    a.caps.trans told.caps, a.time.trans told.time, a.wall.trans told.wall, a.port.trans told.port,
    a.pending.trans told.pending, a.write.trans told.write, ?_⟩,
    congrArg (fun u : CmdUnit => { u with state := .idle }) (a.cmd.trans told.cmd), ?_, a.mem (List.mem_singleton.mpr rfl),
    a.reservations.trans (congrArg (· - 1) told.reservations), fun running lost room waiting => ?_⟩
  · exact (State.chan_congr chans k).trans (State.chan_setChan_of_ne _ _ other)
  · exact told.irq.imp a.irq.trans a.irq.trans
  · exact (State.chan_congr chans ch).trans (State.chan_setChan_self _ _ _)
  · have few := (s.chan ch).clearReports_length_le ch s.mono
    have records := offerAll_room (((s.chan ch).clearReports ch s.mono).map .done) (s.setChan ch after) running lost
      (by rw [List.length_map, State.setChan_reports]; omega)
    exact a.gains records told.reservations

/-! ### The three commands -/

theorem toNat_eq_one_iff (b : Byte) : b.toNat = 1 ↔ b = 1 := by bv_omega

/-- Settles O46: each refusal in its order, the two rows of an enabled channel, and the clearing of a disabled one. -/
theorem configChannelFollowsItsTable : Obligations.ConfigChannelFollowsItsTable := by
  intro s c hold
  have refused : ∀ n, channelFieldsOf c.record = .error n →
      exec .configChannel s = .next (s.answered c .badField (some n) .none) :=
    fun n invalid => carryOut_unchanged hold (by rw [configChannelOwner, invalid]; rfl)
  refine ⟨fun bad => refused 1 (channelFieldsOf_badNumber bad), fun ch number => ?_⟩
  have fields := channelFieldsOf_eq number
  refine ⟨fun bad => ?_, fun e bad => ?_, fun e i bad => ?_, fun i p => ?_⟩
  · rw [if_pos bad] at fields
    exact refused 2 fields
  · rw [if_neg (not_lt.mpr e), if_pos bad] at fields
    exact refused 3 fields
  · rw [if_neg (not_lt.mpr e), if_neg (not_lt.mpr i), if_pos bad] at fields
    exact refused 4 fields
  · intro found initial parked
    simp only [if_neg (not_lt.mpr i), if_neg (not_lt.mpr p), toNat_eq_one_iff] at fields
    refine ⟨fun on unused => ?_, fun on runs => ?_, fun off => ?_⟩
    · rw [if_neg (by simp [on])] at fields
      have owner := configChannelOwner_enables fields (decide_eq_true on)
        (Channel.configure_unused (decide_eq_true on) unused)
      exact congrArg Host.Outcome.next (carryOut_now 0x0E s _ c _ _ _ _ hold owner rfl)
    · rw [if_neg (by simp [on])] at fields
      have owner := configChannelOwner_enables fields (decide_eq_true on)
        (Channel.configure_running (decide_eq_true on) runs)
      have line : ({ found with parked := parked } : Channel).line =
          if found.state = .pulse then found.level.flip else found.level := by
        rcases runs with state | state <;> simp [Channel.line, found, state]
      rw [← line]
      exact congrArg Host.Outcome.next (carryOut_now 0x0E s _ c _ _ _ _ hold owner rfl)
    · rw [if_neg (by simp [off])] at fields
      exact carryOut_clears hold (configChannelOwner_disables fields (by simp [off]))

/-- Settles O47: the clearing of a channel that is kept, and the reading of one. -/
theorem flushClearsAndStatusReadsTheChannel : Obligations.FlushClearsAndStatusReadsTheChannel := by
  intro s c
  refine ⟨fun bad => ⟨fun hold => ?_, fun hold => ?_⟩, fun ch number => ⟨fun hold => ?_, fun hold => ?_⟩⟩
  · exact carryOut_unchanged hold (by rw [flushChannelOwner, channelNumberOf_invalid bad]; rfl)
  · exact carryOut_unchanged hold (by rw [channelStatusOwner, channelNumberOf_invalid bad]; rfl)
  · exact carryOut_clears hold (flushChannelOwner_valid (channelNumberOf_valid number))
  · refine carryOut_unchanged hold ?_
    rw [channelStatusOwner, channelNumberOf_valid number]
    simp only [okWith, Channel.read, Channel.line, Channel.enabled, Channel.runningHandle]
    cases (s.chan ch).state <;> rfl

end Sys2Proof.Machine
end

section
/-! SUPPORT. What a command can do to the output channels, said once: it leaves them alone, or takes them through the steps that
chapter 6 names. Each step keeps a channel's record coherent (R107, R109). -/

namespace Sys2Proof.Machine

/-! ### The steps of a channel -/

/-- What an event can make of one channel (R110 to R118, R124, R127, R128, R131 to R133). -/
inductive Channel.Step : Channel → Channel → Prop where
  | arrived (c : Channel) (ch : Fin 8) (now : Nat) (i : FireInst) : Step c (c.arrive ch now i).channel
  | phased {c d : Channel} {now : Nat} (next : c.nextPhase now = some d) : Step c d
  | succeeded (c : Channel) (now : Nat) : Step c (c.startNext now)
  | withdrawn (c : Channel) (ch : Fin 8) (now : Nat) (h : Handle) (all : Bool) : Step c (c.withdraw ch now h all).channel
  | configured (c : Channel) (f : ChannelFields) : Step c (c.configure f).1
  | flushed (c : Channel) : Step c c.flushed
  | parked (c : Channel) : Step c c.park
  | reset (c : Channel) : Step c .reset

/-- What has started runs in PULSE as a train, or in SPACE (R115, R116). -/
theorem Channel.start_sound {c : Channel} (room : c.queue.length ≤ 8) (now : Nat) (i : FireInst) : (c.start now i).Sound := by
  by_cases train : ∃ p sp n, i.operation = some (.train p sp n)
  · obtain ⟨p, sp, n, train⟩ := train
    rw [Channel.start_train train]
    exact ⟨by simp, by simp, room, fun _ => ⟨_, p, sp, n, rfl, train⟩⟩
  · rw [Channel.start_level rfl fun p sp n e => train ⟨p, sp, n, e⟩]
    exact ⟨by simp, by simp, room, by simp⟩

/-- A channel in which nothing runs or waits, DISABLED or IDLE (R107). -/
theorem Channel.emptied_sound {c : Channel} (state : c.state = .disabled ∨ c.state = .idle) (running : c.running = none)
    (queue : c.queue = []) : c.Sound where
  resting := iff_of_true running state
  alone := fun _ => queue
  room := by simp [queue]
  pulsing := fun pulse => by rcases state with e | e <;> simp [e] at pulse

theorem Channel.startNext_sound {c : Channel} (room : c.queue.length ≤ 8) (now : Nat) : (c.startNext now).Sound := by
  unfold Channel.startNext
  split
  · next i rest queue =>
    rw [queue, List.length_cons] at room
    exact Channel.start_sound (Nat.le_of_succ_le room) now i
  · next queue => exact Channel.emptied_sound (.inr rfl) rfl queue

/-- A waiting queue of another content, where one runs (R107, R109). -/
theorem Channel.Sound.requeue {c : Channel} (sound : c.Sound) {q : List FireInst} (room : q.length ≤ 8)
    (alone : c.running = none → q = []) : ({ c with queue := q } : Channel).Sound :=
  ⟨sound.resting, alone, room, sound.pulsing⟩

theorem Channel.Sound.arrive {c : Channel} (sound : c.Sound) (ch : Fin 8) (now : Nat) (i : FireInst) :
    (c.arrive ch now i).channel.Sound := by
  by_cases running : c.running = none
  · rcases sound.resting.mp running with state | state
    · rw [Channel.arrive_disabled state]
      exact sound
    · rw [Channel.arrive_idle state]
      exact Channel.start_sound sound.room now i
  · have runs := sound.running_iff.mp running
    cases policy : i.busy with
    | queue =>
      by_cases room : c.queue.length < 8
      · rw [Channel.arrive_queued runs policy room]
        exact sound.requeue (by simpa using room) fun none => absurd none running
      · rw [Channel.arrive_dropped runs (.inl ⟨policy, room⟩)]
        exact sound
    | drop =>
      rw [Channel.arrive_dropped runs (.inr policy)]
      exact sound
    | replace =>
      rw [Channel.arrive_replaces runs policy]
      exact Channel.start_sound (c := { c with running := none }) sound.room now i
    | flush =>
      rw [Channel.arrive_flushes runs policy]
      exact Channel.start_sound (c := c.emptied .idle) (Nat.zero_le 8) now i

/-- A phase that follows on another is one of a train: its space, or its next pulse (R117). -/
theorem Channel.nextPhase_train {c d : Channel} {now : Nat} (next : c.nextPhase now = some d) :
    ∃ r p sp n, (d = { c with state := .space, running := some r } ∨ d = { c with state := .pulse, running := some r }) ∧
      r.inst.operation = some (.train p sp n) := by
  unfold Channel.nextPhase at next
  split at next
  · cases next
  · split at next
    · next p sp n train =>
      split_ifs at next <;> cases next
      · exact ⟨_, p, sp, n, .inl rfl, train⟩
      · exact ⟨_, p, sp, n, .inr rfl, train⟩
    · cases next

theorem Channel.Sound.nextPhase {c d : Channel} {now : Nat} (sound : c.Sound) (next : c.nextPhase now = some d) : d.Sound := by
  obtain ⟨r, p, sp, n, rfl | rfl, train⟩ := Channel.nextPhase_train next
  · exact ⟨by simp, by simp, sound.room, by simp⟩
  · exact ⟨by simp, by simp, sound.room, fun _ => ⟨r, p, sp, n, rfl, train⟩⟩

theorem Channel.Sound.withdraw {c : Channel} (sound : c.Sound) (ch : Fin 8) (now : Nat) (h : Handle) (all : Bool) :
    (c.withdraw ch now h all).channel.Sound := by
  have room : (c.queue.filter fun i => i.handle != h).length ≤ 8 := (List.length_filter_le _ _).trans sound.room
  rw [Channel.withdraw_channel]
  split
  · exact Channel.startNext_sound room now
  · exact sound.requeue room fun none => by rw [sound.alone none, List.filter_nil]

theorem Channel.Sound.configure {c : Channel} (sound : c.Sound) (f : ChannelFields) : (c.configure f).1.Sound := by
  cases enable : f.enable with
  | false =>
    rw [Channel.configure_disables enable]
    exact Channel.emptied_sound (.inl rfl) rfl rfl
  | true =>
    by_cases running : c.running = none
    · rw [Channel.configure_unused enable (sound.resting.mp running)]
      exact Channel.emptied_sound (.inr rfl) running (sound.alone running)
    · rw [Channel.configure_running enable (sound.running_iff.mp running)]
      exact ⟨sound.resting, sound.alone, sound.room, sound.pulsing⟩

theorem Channel.Sound.flushed {c : Channel} (sound : c.Sound) : c.flushed.Sound := by
  unfold Channel.flushed
  split
  · exact sound
  · exact Channel.emptied_sound (.inr rfl) rfl rfl

theorem Channel.Sound.park {c : Channel} (sound : c.Sound) : c.park.Sound := by
  unfold Channel.park
  split
  · exact sound
  · exact Channel.emptied_sound (.inl rfl) rfl rfl

theorem Channel.Sound.step {c d : Channel} (sound : c.Sound) (step : c.Step d) : d.Sound := by
  cases step with
  | arrived ch now i => exact sound.arrive ch now i
  | phased next => exact sound.nextPhase next
  | succeeded now => exact Channel.startNext_sound sound.room now
  | withdrawn ch now h all => exact sound.withdraw ch now h all
  | configured f => exact sound.configure f
  | flushed => exact sound.flushed
  | parked => exact sound.park
  | reset => exact channelReset_sound

/-! ### Every channel of the part -/

/-- Each channel has taken some steps, or none. -/
def State.ChanSteps (s t : State) : Prop := ∀ ch, Relation.ReflTransGen Channel.Step (s.chan ch) (t.chan ch)

theorem State.ChanSteps.of_chans {s t : State} (h : t.chans = s.chans) : s.ChanSteps t := fun ch => by
  rw [State.chan_congr h]

theorem State.ChanSteps.refl (s : State) : s.ChanSteps s := .of_chans rfl

theorem State.ChanSteps.trans {s t u : State} (h : s.ChanSteps t) (k : t.ChanSteps u) : s.ChanSteps u :=
  fun ch => (h ch).trans (k ch)

/-- A change of other blocks comes first; the steps stand first, since they name the state between. -/
theorem State.ChanSteps.after {s t u : State} (k : t.ChanSteps u) (h : t.chans = s.chans) : s.ChanSteps u :=
  (State.ChanSteps.of_chans h).trans k

/-- A change of other blocks comes last. -/
theorem State.ChanSteps.before {s t u : State} (k : s.ChanSteps t) (h : u.chans = t.chans) : s.ChanSteps u :=
  k.trans (.of_chans h)

theorem State.OffersFrom.chanSteps {s t : State} (h : s.OffersFrom t) : s.ChanSteps t := .of_chans h.chans

/-- A command whose outcome is a state named outright. -/
theorem State.ChanSteps.of_next {s t u : State} (h : s.ChanSteps u) (e : (.next u : Next) = .next t) : s.ChanSteps t := by
  cases e
  exact h

theorem setChan_chanSteps {s : State} {ch : Fin 8} {d : Channel} (step : (s.chan ch).Step d) :
    s.ChanSteps (s.setChan ch d) := by
  intro k
  by_cases e : k = ch
  · subst e
    rw [State.chan_setChan_self]
    exact .single step
  · rw [State.chan_setChan_of_ne _ _ e]

/-- Every channel parked, by a halt or a soft reset (R131, R132). -/
theorem chanSteps_of_park {s t : State} (h : t.chans = s.chans.map Channel.park) : s.ChanSteps t := by
  intro ch
  have parked : t.chan ch = (s.chan ch).park := by simp [State.chan, h]
  rw [parked]
  exact .single (.parked _)

theorem State.ChanSteps.sound {s t : State} (steps : s.ChanSteps t) (ch : Fin 8) (sound : (s.chan ch).Sound) :
    (t.chan ch).Sound := by
  have steps := steps ch
  generalize t.chan ch = d at steps
  induction steps with
  | refl => exact sound
  | tail _ step ih => exact ih.step step

/-! ### Operations that leave the channels alone -/

theorem acceptAll_chans (base : Nat) (cs : List Completion) (s : State) : (acceptAll base s cs).chans = s.chans := by
  induction cs generalizing s with
  | nil => rfl
  | cons c cs ih => exact ih (acceptCompletion base s c)

theorem finish_chans (base : Nat) (c : InHand) (a : Answer) : (finish base c a).chans = a.state.chans :=
  acceptAll_chans base _ a.state

theorem checkDrain_chans (s : State) : (checkDrain s).chans = s.chans := by
  rcases checkDrain_cases s with e | ⟨-, e⟩ <;> rw [e]
  rfl

theorem retire_chans (s : State) (i : SlotId) (h : Held) : (s.retire i h).chans = s.chans := by
  unfold State.retire
  split <;> rfl

theorem endRun_chans (s : State) (i : SlotId) (h : Held) : (s.endRun i h).chans = s.chans := by
  unfold State.endRun
  split
  · rfl
  · exact retire_chans s i h

theorem loseSlot_chans (s : State) (i : SlotId) : (loseSlot s i).chans = s.chans := by
  unfold loseSlot
  split
  · rfl
  · exact retire_chans s i _

theorem convertSlot_chans (edge : Nat) (s : State) (i : SlotId) : (convertSlot edge s i).chans = s.chans := by
  unfold convertSlot
  split
  · rfl
  · split <;> rfl

theorem foldl_chans {f : State → SlotId → State} (step : ∀ s i, (f s i).chans = s.chans) (l : List SlotId) (s : State) :
    (l.foldl f s).chans = s.chans := by
  induction l generalizing s with
  | nil => rfl
  | cons i l ih => exact (ih (f s i)).trans (step s i)

theorem offerSecond_chans (s : State) (second : Nat) : (s.offerSecond second).chans = s.chans := by
  unfold State.offerSecond
  split <;> rfl

theorem completeEventOnly_chans (s : State) (i : FireInst) : (completeEventOnly s i).chans = s.chans :=
  (offerDones_offersFrom _ _).chans.trans (followOf_chans s i s.mono)

theorem rangeEnd_chans (s : State) : (rangeEnd s).chans = s.chans := by
  have accepted := (rangeEnd_acceptsFrom s).chans
  have offered := (unwalled_offersFrom s).chans
  exact (accepted.trans offered).trans (foldl_chans loseSlot_chans s.sched.wallBound s.stopSlew.dropSnap)

theorem halt_chanSteps (s : State) (code : FaultCode) (address : Word) : s.ChanSteps (halt s code address) := by
  unfold halt
  split
  · exact .refl s
  · exact chanSteps_of_park rfl

/-! ### Occurrences taken -/

theorem fireOccurrence_chanSteps (s : State) (a : Action) (o : Occurrence) (lateness : Nat) :
    s.ChanSteps (fireOccurrence s a o lateness) := by
  unfold fireOccurrence
  dsimp only
  split
  · next out _ =>
    exact ((setChan_chanSteps (.arrived _ out.channel s.mono _)).trans (offerDones_offersFrom _ _).chanSteps).trans
      (offerIf_offersFrom _ _ _ rfl).chanSteps
  · exact (offerIf_offersFrom _ _ _ rfl).chanSteps.before (completeEventOnly_chans _ _)

theorem fireOrSkip_chanSteps (s : State) (a : Action) (o : Occurrence) (lateness : Nat) :
    s.ChanSteps (fireOrSkip s a o lateness) := by
  unfold fireOrSkip
  split
  · exact fireOccurrence_chanSteps s a o lateness
  · exact (offerIf_offersFrom _ _ _ rfl).chanSteps

theorem takeOne_chanSteps (s : State) (k : Taking) : s.ChanSteps (takeOne s k) := by
  cases k with
  | entry i =>
    show s.ChanSteps (takeEntry s i)
    unfold takeEntry
    split
    · exact .refl s
    split
    · exact .refl s
    · refine (fireOrSkip_chanSteps _ _ _ _).after ?_
      split
      · rfl
      · exact endRun_chans _ i _
  | found m =>
    show s.ChanSteps (takeMatch s m)
    unfold takeMatch
    dsimp only
    split
    · exact .refl s
    · refine (fireOrSkip_chanSteps _ _ _ _).after ?_
      split
      · exact endRun_chans _ m.slot _
      · rfl

theorem takeAll_chanSteps (s : State) : s.ChanSteps (takeAll s) :=
  takeAll_induction (P := s.ChanSteps) (fun _ k steps => steps.trans (takeOne_chanSteps _ k)) s (.refl s)

theorem changeSchedule_chanSteps (s : State) (forward : Bool) (landing : Option Nat) :
    s.ChanSteps (changeSchedule s forward landing) := by
  unfold changeSchedule
  split
  · split
    · exact takeAll_chanSteps s
    · exact .refl s
  · split
    · exact (takeAll_chanSteps _).after (offerSecond_chans s _)
    · exact .refl s

theorem wallChange_chanSteps (s : State) (new : Nat) : s.ChanSteps (wallChange s new).1 := by
  have scheduled : ∀ (u : State) (forward : Bool) (landing : Option Nat), u.chans = s.chans →
      s.ChanSteps (changeSchedule u forward landing) :=
    fun u forward landing same => (changeSchedule_chanSteps u forward landing).after same
  unfold wallChange
  dsimp only
  split
  · exact .of_chans rfl
  split
  · exact scheduled _ _ _ rfl
  split
  · split
    · refine State.ChanSteps.trans ?_ (.of_chans (rangeEnd_chans _))
      exact scheduled _ _ _ rfl
    · exact scheduled _ _ _ rfl
  · exact scheduled _ _ _ rfl

theorem applySnap_chanSteps (s : State) : s.ChanSteps (applySnap s) := by
  unfold applySnap
  split
  · exact .refl s
  · dsimp only
    split
    · exact ((wallChange_chanSteps s.dropSnap _).after rfl).before (acceptAll_chans _ _ _)
    · exact .of_chans (acceptAll_chans _ _ _)

theorem resumed_chanSteps (s : State) : s.ChanSteps (resumed s) := by
  have begun : s.ChanSteps (takeAll (s.setSched { s.sched with state := .running, found := [] })) :=
    (takeAll_chanSteps _).after rfl
  unfold resumed
  dsimp only
  split
  · exact (begun.before (offerSecond_chans _ _)).trans (takeAll_chanSteps _)
  · exact begun

/-! ### The commands of the ring -/

/-- A carry-out takes the channels where its owner does. -/
theorem carryOut_chanSteps {opcode : Byte} {s : State} {owner : InHand → State → Answer}
    (own : ∀ c, s.ChanSteps (owner c s).state) : s.ChanSteps (carryOut opcode s owner) := by
  unfold carryOut
  split
  · split
    · exact (own _).before (finish_chans _ _ _)
    · exact .refl s
  · exact .refl s

theorem execBadOpcode_chanSteps {s t : State} (e : execBadOpcode s = .next t) : s.ChanSteps t := by
  cases e
  split
  · split
    · exact .of_chans (finish_chans _ _ (refuseWith s _ _))
    · exact .refl s
  · exact .refl s

theorem execDefineAction_chanSteps {s t : State} (e : execDefineAction s = .next t) : s.ChanSteps t := by
  cases e
  split
  · split
    · split
      · exact .of_chans (finish_chans _ _ (refuseWith s _ _))
      · exact .of_chans rfl
    · exact .refl s
  · exact .refl s

theorem defineFrom_chans (s : State) (d : Descriptor) : (defineFrom s d).state.chans = s.chans := by
  unfold defineFrom
  split
  · rfl
  · split <;> rfl

theorem execDescriptorReadEnd_chanSteps {ending : BusEnd 512} {s t : State}
    (e : execDescriptorReadEnd ending s = .next t) : s.ChanSteps t := by
  cases e
  split
  · cases ending with
    | error => exact .of_chans (finish_chans _ _ (refuseWith s _ _))
    | data d => exact .of_chans ((finish_chans _ _ _).trans (defineFrom_chans s d))
  · exact .refl s

theorem armOwner_chans (c : InHand) (s : State) : (armOwner c s).state.chans = s.chans := by
  unfold armOwner
  dsimp only
  split
  · rfl
  split
  · rfl
  split
  · rfl
  · exact armSlot_chans s _ _ _

theorem withdrawFrom_chanSteps (s : State) (h : Handle) (output : Option Output) (option : Withdraw) :
    s.ChanSteps (withdrawFrom s h output option).1 := by
  unfold withdrawFrom
  split
  · exact (setChan_chanSteps (.withdrawn _ _ s.mono h false)).trans (offerDones_offersFrom _ _).chanSteps
  · exact (setChan_chanSteps (.withdrawn _ _ s.mono h true)).trans (offerDones_offersFrom _ _).chanSteps
  · exact .refl s

theorem disarmOwner_chanSteps (c : InHand) (s : State) : s.ChanSteps (disarmOwner c s).state := by
  unfold disarmOwner
  dsimp only
  split
  · exact .refl s
  split
  · exact .refl s
  · exact (withdrawFrom_chanSteps _ _ _ _).after rfl

theorem releaseOwner_chans (c : InHand) (s : State) : (releaseOwner c s).state.chans = s.chans := by
  unfold releaseOwner
  dsimp only
  split
  · rfl
  · split <;> rfl

theorem suspendOwner_chans (c : InHand) (s : State) : (suspendOwner c s).state.chans = s.chans := by
  unfold suspendOwner
  split <;> rfl

theorem resumeOwner_chanSteps (c : InHand) (s : State) : s.ChanSteps (resumeOwner c s).state := by
  unfold resumeOwner
  split
  · exact resumed_chanSteps s
  · exact .refl s

theorem setTimeOwner_chanSteps (c : InHand) (s : State) : s.ChanSteps (setTimeOwner c s).state := by
  unfold setTimeOwner
  split
  · exact .refl s
  · exact wallChange_chanSteps s _

theorem stepTimeOwner_chanSteps (c : InHand) (s : State) : s.ChanSteps (stepTimeOwner c s).state := by
  unfold stepTimeOwner
  split
  · exact .refl s
  split
  · exact .refl s
  · exact wallChange_chanSteps s _

theorem adjustTimeOwner_chans (c : InHand) (s : State) : (adjustTimeOwner c s).state.chans = s.chans := by
  unfold adjustTimeOwner
  dsimp only
  split_ifs <;> rfl

theorem snapTimeOwner_chanSteps (c : InHand) (s : State) : s.ChanSteps (snapTimeOwner c s).state := by
  unfold snapTimeOwner
  split
  · exact .refl s
  · unfold snapNow
    dsimp only
    split
    · exact .refl s
    split
    · exact .refl s
    · exact wallChange_chanSteps s _
  · unfold snapNextRef
    split_ifs <;> exact .of_chans rfl

theorem configReferenceOwner_chans (c : InHand) (s : State) : (configReferenceOwner c s).state.chans = s.chans := by
  unfold configReferenceOwner
  split
  · rfl
  · exact (offerReference_offersFrom _ _).chans

theorem configChannelOwner_chanSteps (c : InHand) (s : State) : s.ChanSteps (configChannelOwner c s).state := by
  unfold configChannelOwner
  split
  · exact .refl s
  · next f _ =>
    exact (setChan_chanSteps (.configured (s.chan f.channel) f)).trans (offerDones_offersFrom _ _).chanSteps

theorem flushChannelOwner_chanSteps (c : InHand) (s : State) : s.ChanSteps (flushChannelOwner c s).state := by
  unfold flushChannelOwner
  split
  · exact .refl s
  · next ch _ => exact (setChan_chanSteps (.flushed (s.chan ch))).trans (offerDones_offersFrom _ _).chanSteps

theorem configCaptureOwner_chans (c : InHand) (s : State) : (configCaptureOwner c s).state.chans = s.chans := by
  unfold configCaptureOwner
  split <;> rfl

/-! ### The port -/

theorem execFetchEnd_chanSteps {ending : BusEnd 256} {s t : State} (e : execFetchEnd ending s = .next t) :
    s.ChanSteps t := by
  cases e
  split
  · exact .refl s
  split
  · cases ending with
    | data r => exact .of_chans rfl
    | error => exact halt_chanSteps s _ _
  · exact .of_chans (checkDrain_chans _)

theorem execReportWriteEnd_chanSteps {busError : Bool} {s t : State} (e : execReportWriteEnd busError s = .next t) :
    s.ChanSteps t := by
  cases e
  split
  · exact .refl s
  split
  · exact halt_chanSteps s _ _
  · exact .of_chans (checkDrain_chans _)

theorem writeEnable1_chanSteps (s : State) : s.ChanSteps (writeEnable1 s) := by
  unfold writeEnable1
  split
  · split
    · dsimp only
      split
      · exact (halt_chanSteps _ _ _).after rfl
      · exact .of_chans rfl
    · exact .of_chans rfl
  · exact .refl s

theorem writeEnable0_chans (s : State) : (writeEnable0 s).chans = s.chans := by
  unfold writeEnable0
  split
  · exact (checkDrain_chans _).trans (acceptAll_chans _ _ _)
  · rfl

theorem writeCrTail_chanSteps (s : State) (v : Word) : s.ChanSteps (writeCrTail s v) := by
  unfold writeCrTail
  split
  · split
    · exact .of_chans rfl
    · exact halt_chanSteps s _ _
  · exact .refl s

theorem writeRrHead_chanSteps (s : State) (v : Word) : s.ChanSteps (writeRrHead s v) := by
  unfold writeRrHead
  dsimp only
  split
  · split
    · exact .of_chans rfl
    · exact halt_chanSteps s _ _
  · exact .refl s

theorem storeRing_chans (s : State) (p : Port) : (storeRing s p).chans = s.chans := by
  unfold storeRing
  split <;> rfl

theorem softResetAll_chanSteps (s : State) : s.ChanSteps (softResetAll s) := chanSteps_of_park rfl

theorem writeRegister_chanSteps (s : State) (r : Reg) (v : Word) : s.ChanSteps (writeRegister s r v) := by
  cases r with
  | devId | devRev | status | faultCode | faultAddr | crHead | rrTail => exact .refl s
  | crBase | crSize | rrBase | rrSize => exact .of_chans (storeRing_chans s _)
  | control =>
    unfold writeRegister
    dsimp only
    split
    · exact softResetAll_chanSteps s
    split
    · exact writeEnable1_chanSteps s
    · exact .of_chans (writeEnable0_chans s)
  | crTail => exact writeCrTail_chanSteps s v
  | rrHead => exact writeRrHead_chanSteps s v
  | intStatus | intEnable | intModeration => exact .of_chans rfl

theorem execRegisterWrite_chanSteps {offset : Nat} {value : Word} {s t : State}
    (e : execRegisterWrite offset value s = .next t) : s.ChanSteps t := by
  unfold execRegisterWrite at e
  split at e
  · cases e
    exact writeRegister_chanSteps s _ value
  · cases e

theorem execPowerOnReset_chanSteps {lines : Vector Level 4} {s t : State} (e : execPowerOnReset lines s = .next t) :
    s.ChanSteps t := by
  cases e
  intro ch
  have reset : (State.powerOn lines s.choices s.pending).chan ch = .reset := by simp [State.powerOn, State.chan]
  rw [reset]
  exact .single (.reset _)

/-! ### The inputs, the clocks and the scheduler -/

theorem acceptedEdge_chans (s : State) (k : Fin 4) (instant : Nat) (p : Polarity) :
    (acceptedEdge s k instant p).chans = s.chans := by
  unfold acceptedEdge
  dsimp only
  split <;> split
  · exact (offer_offersFrom _ _ rfl).chans
  · rfl
  · exact (foldl_chans (convertSlot_chans instant) _ _).trans (offer_offersFrom _ _ rfl).chans
  · exact foldl_chans (convertSlot_chans instant) _ _

theorem acceptCandidate_chans (s : State) (k : Fin 4) (x : Candidate) : (acceptCandidate s k x).chans = s.chans := by
  unfold acceptCandidate
  dsimp only
  split
  · exact acceptedEdge_chans _ _ _ _
  · rfl

theorem execTransition_chanSteps {k : Fin 4} {s t : State} (e : execTransition k s = .next t) : s.ChanSteps t := by
  cases e
  refine .of_chans ?_
  dsimp only
  split_ifs
  · rfl
  · rfl
  · rfl
  · rfl
  · exact acceptCandidate_chans _ _ _
  · rfl

theorem execAcceptance_chanSteps {k : Fin 4} {s t : State} (e : execAcceptance k s = .next t) : s.ChanSteps t := by
  cases e
  refine .of_chans ?_
  split
  · split
    · exact acceptCandidate_chans s k _
    · rfl
  · rfl

theorem execRefEdge_chanSteps {s t : State} (e : execRefEdge s = .next t) : s.ChanSteps t := by
  cases e
  have judged : s.ChanSteps (offerReference (s.setTime s.time.edge.1) s.time.disc.state) :=
    (offerReference_offersFrom _ _).chanSteps.after rfl
  have snapped : ∀ offered : Bool, s.ChanSteps (if offered then
      applySnap (offerReference (s.setTime s.time.edge.1) s.time.disc.state)
      else offerReference (s.setTime s.time.edge.1) s.time.disc.state) := by
    rintro (_ | _)
    · exact judged
    · exact judged.trans (applySnap_chanSteps _)
  exact (snapped s.time.edge.2).before rfl

theorem execWindowClose_chanSteps {s t : State} (e : execWindowClose s = .next t) : s.ChanSteps t := by
  cases e
  split
  · exact .of_chans (offerReference_offersFrom (s.setTime _) _).chans
  · exact .refl s

theorem execExpiry_chanSteps {s t : State} (e : execExpiry s = .next t) : s.ChanSteps t := by
  cases e
  split
  · split
    · next i _ =>
      split
      · exact (takeOne_chanSteps s (.entry i)).before rfl
      · exact .refl s
    · next m _ =>
      split
      · exact (takeOne_chanSteps s (.found m)).before rfl
      · exact .refl s
    · exact .refl s
  · exact .refl s

theorem execRunningSecondBoundary_chanSteps {s t : State} (e : execRunningSecondBoundary s = .next t) : s.ChanSteps t := by
  cases e
  split
  · exact .of_chans (offerSecond_chans _ _)
  · exact .refl s

theorem execSlewStep_chanSteps {s t : State} (e : execSlewStep s = .next t) : s.ChanSteps t := by
  cases e
  refine .of_chans ?_
  split
  · split
    · dsimp only
      split
      · exact acceptAll_chans _ _ _
      · rfl
    · rfl
  · rfl

theorem execWaitEnd_chanSteps {s t : State} (e : execWaitEnd s = .next t) : s.ChanSteps t := by
  cases e
  split
  · exact .of_chans (acceptAll_chans _ _ _)
  · exact .refl s

theorem execRangeEnd_chanSteps {s t : State} (e : execRangeEnd s = .next t) : s.ChanSteps t := by
  cases e
  split
  · exact .of_chans (rangeEnd_chans s)
  · exact .refl s

theorem completeRunning_chanSteps (s : State) (ch : Fin 8) (r : Running) : s.ChanSteps (completeRunning s ch r) :=
  (setChan_chanSteps (.succeeded _ s.mono)).after
    ((offerDones_offersFrom _ _).chans.trans (followOf_chans s r.inst s.mono))

theorem execPhaseEnd_chanSteps {ch : Fin 8} {s t : State} (e : execPhaseEnd ch s = .next t) : s.ChanSteps t := by
  cases e
  split
  · split
    · next phase => exact setChan_chanSteps (.phased phase)
    · exact (completeRunning_chanSteps s ch _).before rfl
    · exact .refl s
  · exact .refl s

theorem execModerationExpiry_chanSteps {s t : State} (e : execModerationExpiry s = .next t) : s.ChanSteps t := by
  cases e
  split <;> exact .of_chans rfl

theorem execMonoExhaustion_chanSteps {s t : State} (e : execMonoExhaustion s = .next t) : s.ChanSteps t := by
  cases e
  split
  · exact (halt_chanSteps _ _ _).after rfl
  · exact .refl s

theorem execFineUnit_chanSteps {s t : State} (e : execFineUnit s = .next t) : s.ChanSteps t := by
  cases e
  split <;> exact .of_chans rfl

/-- What any command does to the channels. -/
theorem exec_chanSteps {c : Instr} {s t : State} (e : exec c s = .next t) : s.ChanSteps t := by
  cases c with
  | nop | readTime => exact (carryOut_chanSteps fun _ => .refl s).of_next e
  | badOpcode => exact execBadOpcode_chanSteps e
  | defineAction => exact execDefineAction_chanSteps e
  | descriptorReadEnd ending => exact execDescriptorReadEnd_chanSteps e
  | arm => exact (carryOut_chanSteps fun c => .of_chans (armOwner_chans c s)).of_next e
  | disarm => exact (carryOut_chanSteps fun c => disarmOwner_chanSteps c s).of_next e
  | release => exact (carryOut_chanSteps fun c => .of_chans (releaseOwner_chans c s)).of_next e
  | queryAction => exact (carryOut_chanSteps fun c => by rw [queryOwner_state]; exact .refl s).of_next e
  | suspend => exact (carryOut_chanSteps fun c => .of_chans (suspendOwner_chans c s)).of_next e
  | resume => exact (carryOut_chanSteps fun c => resumeOwner_chanSteps c s).of_next e
  | setTime => exact (carryOut_chanSteps fun c => setTimeOwner_chanSteps c s).of_next e
  | stepTime => exact (carryOut_chanSteps fun c => stepTimeOwner_chanSteps c s).of_next e
  | adjustTime => exact (carryOut_chanSteps fun c => .of_chans (adjustTimeOwner_chans c s)).of_next e
  | snapTime => exact (carryOut_chanSteps fun c => snapTimeOwner_chanSteps c s).of_next e
  | configReference => exact (carryOut_chanSteps fun c => .of_chans (configReferenceOwner_chans c s)).of_next e
  | configChannel => exact (carryOut_chanSteps fun c => configChannelOwner_chanSteps c s).of_next e
  | flushChannel => exact (carryOut_chanSteps fun c => flushChannelOwner_chanSteps c s).of_next e
  | channelStatus => exact (carryOut_chanSteps fun c => by rw [channelStatusOwner_state]; exact .refl s).of_next e
  | configCapture => exact (carryOut_chanSteps fun c => .of_chans (configCaptureOwner_chans c s)).of_next e
  | captureStatus => exact (carryOut_chanSteps fun c => by rw [captureStatusOwner_state]; exact .refl s).of_next e
  | fetchStart | reportWriteStart => cases e; exact .of_chans rfl
  | intStatusWrite | intEnableWrite | intModerationWrite => cases e; exact .of_chans rfl
  | softReset => exact (softResetAll_chanSteps s).of_next e
  | fetchEnd ending => exact execFetchEnd_chanSteps e
  | reportWriteEnd busError => exact execReportWriteEnd_chanSteps e
  | enableWrite1 => exact (writeEnable1_chanSteps s).of_next e
  | enableWrite0 => exact (State.ChanSteps.of_chans (writeEnable0_chans s)).of_next e
  | crTailWrite value => exact (writeCrTail_chanSteps s value).of_next e
  | rrHeadWrite value => exact (writeRrHead_chanSteps s value).of_next e
  | registerWrite offset value => exact execRegisterWrite_chanSteps e
  | powerOnReset lines => exact execPowerOnReset_chanSteps e
  | refEdge => exact execRefEdge_chanSteps e
  | windowClose => exact execWindowClose_chanSteps e
  | transition input => exact execTransition_chanSteps e
  | acceptance input => exact execAcceptance_chanSteps e
  | expiry => exact execExpiry_chanSteps e
  | runningSecondBoundary => exact execRunningSecondBoundary_chanSteps e
  | slewStep => exact execSlewStep_chanSteps e
  | waitEnd => exact execWaitEnd_chanSteps e
  | rangeEnd => exact execRangeEnd_chanSteps e
  | phaseEnd channel => exact execPhaseEnd_chanSteps e
  | moderationExpiry => exact execModerationExpiry_chanSteps e
  | monoExhaustion => exact execMonoExhaustion_chanSteps e
  | fineUnit => exact execFineUnit_chanSteps e

/-- Settles O9: every command takes each channel through steps of chapter 6, and each step keeps its record coherent. -/
theorem channelsStayCoherent : Obligations.ChannelsStayCoherent :=
  fun _ _ _ sound e ch => (exec_chanSteps e).sound ch (sound ch)

end Sys2Proof.Machine
end

section
/-! SUPPORT. What a command can do to the capture inputs, said once: it leaves them alone, or takes them through the steps that
chapter 7 names. Each step keeps an input's filter coherent (R134, R135). -/

namespace Sys2Proof.Machine

/-! ### The steps of an input -/

theorem level_flip_flip (l : Level) : l.flip.flip = l := by cases l <;> rfl

/-- The line at its other level, the transition noted at `now` (R134). -/
def Capture.moved (k : Capture) (now : Nat) : Capture := { k with line := k.line.flip, movedAt := some now }

/-- The candidate that a transition at `now` makes (R135). -/
def Capture.candidateAt (k : Capture) (now : Nat) : Candidate :=
  { level := k.line.flip, instant := now, acceptAt := now + k.filter }

/-- A transition that becomes the candidate (R135). -/
def Capture.seen (k : Capture) (now : Nat) : Capture := { k.moved now with candidate := some (k.candidateAt now) }

/-- A candidate accepted: its level is the filtered one, and no candidate is left (R135). -/
def Capture.believed (k : Capture) (x : Candidate) : Capture := { k with filtered := x.level, candidate := none }

/-- What an event can make of one input (R134 to R137, R145, R147). -/
inductive Capture.Step : Capture → Capture → Prop where
  | configured (k : Capture) (f : CaptureFields) : Step k (k.configure f)
  | movedOff {k : Capture} (off : k.on = false) (now : Nat) : Step k (k.moved now)
  | movedBack {k : Capture} (none : k.candidate = none) (level : k.line.flip = k.filtered) (now : Nat) : Step k (k.moved now)
  | returned {k : Capture} (present : k.candidate ≠ none) (now : Nat) : Step k { k.moved now with candidate := none }
  | seen {k : Capture} (on : k.on = true) (none : k.candidate = none) (now : Nat) : Step k (k.seen now)
  | believed {k : Capture} {x : Candidate} (candidate : k.candidate = some x) : Step k (k.believed x)
  | counted (k : Capture) (number : Nat) (edge : LastEdge) : Step k { k with count := number, last := some edge }
  | stopped (k : Capture) : Step k k.softReset
  | reset (k : Capture) (line : Level) : Step k (.reset line)

/-- An input whose line is at its filtered level, without a candidate (R135). -/
theorem Capture.sound_of_settled {k : Capture} (candidate : k.candidate = none) (settled : k.on = true → k.line = k.filtered) :
    k.Sound :=
  ⟨fun _ => candidate, fun on _ => settled on, fun x e => by rw [candidate] at e; cases e⟩

/-- A transition with a candidate present brings the line back to the filtered level (R135). -/
theorem Capture.Sound.flip_of_candidate {k : Capture} (sound : k.Sound) (present : k.candidate ≠ none) :
    k.line.flip = k.filtered := by
  obtain ⟨x, candidate⟩ := Option.ne_none_iff_exists'.mp present
  rw [(sound.candidate x candidate).2, level_flip_flip]

theorem Capture.Sound.step {k l : Capture} (sound : k.Sound) (step : k.Step l) : l.Sound := by
  cases step with
  | configured f => exact Capture.sound_of_settled rfl fun _ => rfl
  | movedOff off now => exact Capture.sound_of_settled (sound.off off) fun on => absurd (off.symm.trans on) Bool.false_ne_true
  | movedBack none level now => exact Capture.sound_of_settled none fun _ => level
  | returned present now => exact Capture.sound_of_settled rfl fun _ => sound.flip_of_candidate present
  | seen on none now =>
    refine ⟨fun off => absurd (off.symm.trans on) Bool.false_ne_true, fun _ e => (by cases e), fun x e => ?_⟩
    cases e
    exact ⟨rfl, congrArg Level.flip (sound.settled on none)⟩
  | believed candidate => exact Capture.sound_of_settled rfl fun _ => (sound.candidate _ candidate).1.symm
  | counted number edge => exact ⟨sound.off, sound.settled, sound.candidate⟩
  | stopped => exact Capture.sound_of_settled rfl fun on => by cases on
  | reset line => exact captureReset_sound line

/-! ### Every input of the part -/

/-- Each input has taken some steps, or none. -/
def State.CapSteps (s t : State) : Prop := ∀ k, Relation.ReflTransGen Capture.Step (s.cap k) (t.cap k)

theorem State.CapSteps.of_caps {s t : State} (h : t.caps = s.caps) : s.CapSteps t := fun k => by
  rw [State.cap_congr h]

theorem State.CapSteps.refl (s : State) : s.CapSteps s := .of_caps rfl

theorem State.CapSteps.trans {s t u : State} (h : s.CapSteps t) (k : t.CapSteps u) : s.CapSteps u :=
  fun i => (h i).trans (k i)

/-- A change of other blocks comes last. -/
theorem State.CapSteps.before {s t u : State} (h : s.CapSteps t) (e : u.caps = t.caps) : s.CapSteps u :=
  h.trans (.of_caps e)

/-- A command whose outcome is a state named outright. -/
theorem State.CapSteps.of_next {s t u : State} (h : s.CapSteps u) (e : (.next u : Next) = .next t) : s.CapSteps t := by
  cases e
  exact h

theorem setCap_capSteps {s : State} {k : Fin 4} {d : Capture} (step : (s.cap k).Step d) : s.CapSteps (s.setCap k d) := by
  intro j
  by_cases own : j = k
  · subst own
    rw [State.cap_setCap_self]
    exact .single step
  · rw [State.cap_setCap_of_ne _ _ own]

theorem State.CapSteps.sound {s t : State} (steps : s.CapSteps t) (k : Fin 4) (sound : (s.cap k).Sound) : (t.cap k).Sound := by
  have steps := steps k
  generalize t.cap k = d at steps
  induction steps with
  | refl => exact sound
  | tail _ step ih => exact ih.step step

/-! ### Operations that leave the inputs alone -/

@[simp] theorem acceptAll_caps (base : Nat) (cs : List Completion) (s : State) : (acceptAll base s cs).caps = s.caps := by
  induction cs generalizing s with
  | nil => rfl
  | cons c cs ih => exact ih (acceptCompletion base s c)

@[simp] theorem finish_caps (base : Nat) (c : InHand) (a : Answer) : (finish base c a).caps = a.state.caps :=
  acceptAll_caps base _ a.state

@[simp] theorem checkDrain_caps (s : State) : (checkDrain s).caps = s.caps := by
  rcases checkDrain_cases s with e | ⟨-, e⟩ <;> rw [e]
  rfl

@[simp] theorem halt_caps (s : State) (code : FaultCode) (address : Word) : (halt s code address).caps = s.caps := by
  unfold halt
  split <;> rfl

@[simp] theorem offerDones_caps (s : State) (ds : List DoneReport) : (offerDones s ds).caps = s.caps :=
  (offerDones_offersFrom s ds).caps

@[simp] theorem rangeEnd_caps (s : State) : (rangeEnd s).caps = s.caps :=
  ((rangeEnd_acceptsFrom s).caps.trans (unwalled_offersFrom s).caps).trans (unwalled_schedulesFrom s).caps

@[simp] theorem changeSchedule_caps (s : State) (forward : Bool) (landing : Option Nat) :
    (changeSchedule s forward landing).caps = s.caps := (changeSchedule_schedulesFrom s forward landing).caps

@[simp] theorem offerReference_caps (s : State) (old : DiscState) : (offerReference s old).caps = s.caps :=
  (offerReference_offersFrom s old).caps

@[simp] theorem stopSlew_caps (s : State) : s.stopSlew.caps = s.caps := rfl

@[simp] theorem dropSnap_caps (s : State) : s.dropSnap.caps = s.caps := rfl

@[simp] theorem wallChange_caps (s : State) (new : Nat) : (wallChange s new).1.caps = s.caps := by
  unfold wallChange
  dsimp only
  split_ifs <;> simp

@[simp] theorem applySnap_caps (s : State) : (applySnap s).caps = s.caps := by
  unfold applySnap
  split
  · rfl
  · dsimp only
    split <;> simp

/-- A carry-out leaves the inputs as its owner does. -/
theorem carryOut_capSteps {opcode : Byte} {s : State} {owner : InHand → State → Answer}
    (own : ∀ c, s.CapSteps (owner c s).state) : s.CapSteps (carryOut opcode s owner) := by
  unfold carryOut
  split
  · split
    · exact (own _).before (finish_caps _ _ _)
    · exact .refl s
  · exact .refl s

/-- A carry-out whose owner leaves the inputs alone. -/
theorem carryOut_keepsCaps {opcode : Byte} {s t : State} {owner : InHand → State → Answer}
    (own : ∀ c, (owner c s).state.caps = s.caps) (e : (.next (carryOut opcode s owner) : Next) = .next t) : s.CapSteps t :=
  (carryOut_capSteps fun c => .of_caps (own c)).of_next e

/-! ### The commands of the ring -/

theorem execBadOpcode_caps {s t : State} (e : execBadOpcode s = .next t) : t.caps = s.caps := by
  cases e
  split
  · split
    · exact finish_caps _ _ (refuseWith s _ _)
    · rfl
  · rfl

theorem execDefineAction_caps {s t : State} (e : execDefineAction s = .next t) : t.caps = s.caps := by
  cases e
  split
  · split
    · split
      · exact finish_caps _ _ (refuseWith s _ _)
      · rfl
    · rfl
  · rfl

theorem execDescriptorReadEnd_caps {ending : BusEnd 512} {s t : State} (e : execDescriptorReadEnd ending s = .next t) :
    t.caps = s.caps := by
  cases e
  split
  · cases ending with
    | error => exact finish_caps _ _ (refuseWith s _ _)
    | data d =>
      refine (finish_caps _ _ _).trans ?_
      unfold defineFrom
      split
      · rfl
      · split <;> rfl
  · rfl

theorem armOwner_caps (c : InHand) (s : State) : (armOwner c s).state.caps = s.caps := by
  unfold armOwner
  dsimp only
  split
  · rfl
  split
  · rfl
  split
  · rfl
  · exact (armSlot_schedulesFrom s _ _ _).caps

theorem withdrawFrom_caps (s : State) (h : Handle) (output : Option Output) (option : Withdraw) :
    (withdrawFrom s h output option).1.caps = s.caps := by
  unfold withdrawFrom
  split
  · exact offerDones_caps _ _
  · exact offerDones_caps _ _
  · rfl

theorem disarmOwner_caps (c : InHand) (s : State) : (disarmOwner c s).state.caps = s.caps := by
  unfold disarmOwner
  dsimp only
  split
  · rfl
  split
  · rfl
  · exact withdrawFrom_caps _ _ _ _

theorem releaseOwner_caps (c : InHand) (s : State) : (releaseOwner c s).state.caps = s.caps := by
  unfold releaseOwner
  dsimp only
  split
  · rfl
  · split <;> rfl

theorem suspendOwner_caps (c : InHand) (s : State) : (suspendOwner c s).state.caps = s.caps := by
  unfold suspendOwner
  split <;> rfl

theorem resumeOwner_caps (c : InHand) (s : State) : (resumeOwner c s).state.caps = s.caps := by
  unfold resumeOwner
  split
  · exact (resumed_schedulesFrom s).caps
  · rfl

theorem setTimeOwner_caps (c : InHand) (s : State) : (setTimeOwner c s).state.caps = s.caps := by
  unfold setTimeOwner
  split
  · rfl
  · exact wallChange_caps s _

theorem stepTimeOwner_caps (c : InHand) (s : State) : (stepTimeOwner c s).state.caps = s.caps := by
  unfold stepTimeOwner
  split
  · rfl
  split
  · rfl
  · exact wallChange_caps s _

theorem adjustTimeOwner_caps (c : InHand) (s : State) : (adjustTimeOwner c s).state.caps = s.caps := by
  unfold adjustTimeOwner
  dsimp only
  split_ifs <;> rfl

theorem snapTimeOwner_caps (c : InHand) (s : State) : (snapTimeOwner c s).state.caps = s.caps := by
  unfold snapTimeOwner
  split
  · rfl
  · unfold snapNow
    dsimp only
    split
    · rfl
    split
    · rfl
    · exact wallChange_caps s _
  · unfold snapNextRef
    split_ifs <;> rfl

theorem configReferenceOwner_caps (c : InHand) (s : State) : (configReferenceOwner c s).state.caps = s.caps := by
  unfold configReferenceOwner
  split
  · rfl
  · exact offerReference_caps _ _

theorem configChannelOwner_caps (c : InHand) (s : State) : (configChannelOwner c s).state.caps = s.caps := by
  unfold configChannelOwner
  split
  · rfl
  · exact offerDones_caps _ _

theorem flushChannelOwner_caps (c : InHand) (s : State) : (flushChannelOwner c s).state.caps = s.caps := by
  unfold flushChannelOwner
  split
  · rfl
  · exact offerDones_caps _ _

theorem configCaptureOwner_capSteps (c : InHand) (s : State) : s.CapSteps (configCaptureOwner c s).state := by
  unfold configCaptureOwner
  split
  · exact .refl s
  · next f _ => exact setCap_capSteps (.configured (s.cap f.input) f)

/-! ### The port -/

theorem execFetchEnd_caps {ending : BusEnd 256} {s t : State} (e : execFetchEnd ending s = .next t) : t.caps = s.caps := by
  cases e
  split
  · rfl
  split
  · cases ending with
    | data r => rfl
    | error => exact halt_caps s _ _
  · exact checkDrain_caps _

theorem execReportWriteEnd_caps {busError : Bool} {s t : State} (e : execReportWriteEnd busError s = .next t) :
    t.caps = s.caps := by
  cases e
  split
  · rfl
  split
  · exact halt_caps s _ _
  · exact checkDrain_caps _

theorem writeEnable1_caps (s : State) : (writeEnable1 s).caps = s.caps := by
  unfold writeEnable1
  split
  · split
    · dsimp only
      split
      · exact halt_caps _ _ _
      · rfl
    · rfl
  · rfl

theorem writeEnable0_caps (s : State) : (writeEnable0 s).caps = s.caps := by
  unfold writeEnable0
  split
  · exact (checkDrain_caps _).trans (acceptAll_caps _ _ _)
  · rfl

theorem writeCrTail_caps (s : State) (v : Word) : (writeCrTail s v).caps = s.caps := by
  unfold writeCrTail
  split
  · split
    · rfl
    · exact halt_caps s _ _
  · rfl

theorem writeRrHead_caps (s : State) (v : Word) : (writeRrHead s v).caps = s.caps := by
  unfold writeRrHead
  dsimp only
  split
  · split
    · rfl
    · exact halt_caps s _ _
  · rfl

theorem storeRing_caps (s : State) (p : Port) : (storeRing s p).caps = s.caps := by
  unfold storeRing
  split <;> rfl

theorem softResetAll_cap (s : State) (k : Fin 4) : (softResetAll s).cap k = (s.cap k).softReset := by
  simp [softResetAll, State.cap]

/-- Every input stopped by a soft reset (R147). -/
theorem softResetAll_capSteps (s : State) : s.CapSteps (softResetAll s) := fun k => by
  rw [softResetAll_cap]
  exact .single (.stopped _)

theorem writeRegister_capSteps (s : State) (r : Reg) (v : Word) : s.CapSteps (writeRegister s r v) := by
  cases r with
  | devId | devRev | status | faultCode | faultAddr | crHead | rrTail => exact .refl s
  | crBase | crSize | rrBase | rrSize => exact .of_caps (storeRing_caps s _)
  | control =>
    unfold writeRegister
    dsimp only
    split
    · exact softResetAll_capSteps s
    split
    · exact .of_caps (writeEnable1_caps s)
    · exact .of_caps (writeEnable0_caps s)
  | crTail => exact .of_caps (writeCrTail_caps s v)
  | rrHead => exact .of_caps (writeRrHead_caps s v)
  | intStatus | intEnable | intModeration => exact .of_caps rfl

theorem execRegisterWrite_capSteps {offset : Nat} {value : Word} {s t : State}
    (e : execRegisterWrite offset value s = .next t) : s.CapSteps t := by
  unfold execRegisterWrite at e
  split at e
  · exact (writeRegister_capSteps s _ value).of_next e
  · cases e

theorem execPowerOnReset_capSteps {lines : Vector Level 4} {s t : State} (e : execPowerOnReset lines s = .next t) :
    s.CapSteps t := by
  cases e
  intro k
  have reset : (State.powerOn lines s.choices s.pending).cap k = .reset lines[k.val] := by simp [State.powerOn, State.cap]
  rw [reset]
  exact .single (.reset _ _)

/-! ### The filter -/

theorem acceptedEdge_capSteps (s : State) (k : Fin 4) (instant : Nat) (p : Polarity) :
    s.CapSteps (acceptedEdge s k instant p) := by
  have counted : s.CapSteps (s.setCap k
      { s.cap k with count := ((s.cap k).count + 1) % 4294967296, last := some { instant := instant, polarity := p } }) :=
    setCap_capSteps (.counted _ _ _)
  unfold acceptedEdge
  dsimp only
  refine counted.before ?_
  split_ifs
  · exact (offer_offersFrom _ _ rfl).caps
  · rfl
  · exact (convert_schedulesFrom _ _ _).caps.trans (offer_offersFrom _ _ rfl).caps
  · exact (convert_schedulesFrom _ _ _).caps

theorem acceptCandidate_capSteps {s : State} {k : Fin 4} {x : Candidate} (candidate : (s.cap k).candidate = some x) :
    s.CapSteps (acceptCandidate s k x) := by
  have believed : s.CapSteps (s.setCap k ((s.cap k).believed x)) := setCap_capSteps (.believed candidate)
  unfold acceptCandidate
  dsimp only
  split
  · exact believed.trans (acceptedEdge_capSteps _ _ _ _)
  · exact believed

theorem execAcceptance_capSteps {k : Fin 4} {s t : State} (e : execAcceptance k s = .next t) : s.CapSteps t := by
  cases e
  split
  · split
    · next candidate => exact (acceptCandidate_capSteps candidate).before rfl
    · exact .refl s
  · exact .refl s

theorem execTransition_capSteps {k : Fin 4} {s t : State} (e : execTransition k s = .next t) : s.CapSteps t := by
  cases e
  dsimp only
  split
  · exact .refl s
  split
  · next off => exact setCap_capSteps (.movedOff (by simpa using off) s.mono)
  split
  · next present => exact setCap_capSteps (.returned (Option.isSome_iff_ne_none.mp present) s.mono)
  next on absent =>
  have absent : (s.cap k).candidate = none := by simpa using absent
  split
  · next level => exact setCap_capSteps (.movedBack absent level s.mono)
  have seen : s.CapSteps (s.setCap k ((s.cap k).seen s.mono)) := setCap_capSteps (.seen (by simpa using on) absent s.mono)
  split
  · exact (seen.trans (acceptCandidate_capSteps (by rw [State.cap_setCap_self]; rfl))).before rfl
  · exact seen

/-! ### The clocks and the scheduler -/

theorem execRefEdge_caps {s t : State} (e : execRefEdge s = .next t) : t.caps = s.caps := by
  cases e
  have snapped : ∀ offered : Bool, (if offered then applySnap (offerReference (s.setTime s.time.edge.1) s.time.disc.state)
      else offerReference (s.setTime s.time.edge.1) s.time.disc.state).caps = s.caps := by
    rintro (_ | _)
    · exact offerReference_caps _ _
    · exact (applySnap_caps _).trans (offerReference_caps _ _)
  exact snapped s.time.edge.2

theorem execWindowClose_caps {s t : State} (e : execWindowClose s = .next t) : t.caps = s.caps := by
  cases e
  split
  · exact offerReference_caps _ _
  · rfl

theorem execExpiry_caps {s t : State} (e : execExpiry s = .next t) : t.caps = s.caps := by
  cases e
  split
  · split
    · split
      · exact (takeEntry_schedulesFrom s _).caps
      · rfl
    · split
      · exact (takeMatch_schedulesFrom s _).caps
      · rfl
    · rfl
  · rfl

theorem execRunningSecondBoundary_caps {s t : State} (e : execRunningSecondBoundary s = .next t) : t.caps = s.caps := by
  cases e
  split
  · exact (offerSecond_schedulesFrom _ _).caps
  · rfl

theorem execSlewStep_caps {s t : State} (e : execSlewStep s = .next t) : t.caps = s.caps := by
  cases e
  split
  · split
    · dsimp only
      split
      · exact acceptAll_caps _ _ _
      · rfl
    · rfl
  · rfl

theorem execWaitEnd_caps {s t : State} (e : execWaitEnd s = .next t) : t.caps = s.caps := by
  cases e
  split
  · exact acceptAll_caps _ _ _
  · rfl

theorem execRangeEnd_caps {s t : State} (e : execRangeEnd s = .next t) : t.caps = s.caps := by
  cases e
  split
  · exact rangeEnd_caps s
  · rfl

theorem completeRunning_caps (s : State) (ch : Fin 8) (r : Running) : (completeRunning s ch r).caps = s.caps :=
  (offerDones_caps _ _).trans (followOf_schedulesFrom s r.inst s.mono).caps

theorem execPhaseEnd_caps {ch : Fin 8} {s t : State} (e : execPhaseEnd ch s = .next t) : t.caps = s.caps := by
  cases e
  split
  · split
    · rfl
    · exact completeRunning_caps s ch _
    · rfl
  · rfl

theorem execModerationExpiry_caps {s t : State} (e : execModerationExpiry s = .next t) : t.caps = s.caps := by
  cases e
  split <;> rfl

theorem execMonoExhaustion_caps {s t : State} (e : execMonoExhaustion s = .next t) : t.caps = s.caps := by
  cases e
  split
  · exact halt_caps _ _ _
  · rfl

theorem execFineUnit_caps {s t : State} (e : execFineUnit s = .next t) : t.caps = s.caps := by
  cases e
  split <;> rfl

/-- What any command does to the inputs. -/
theorem exec_capSteps {c : Instr} {s t : State} (e : exec c s = .next t) : s.CapSteps t := by
  cases c with
  | nop | readTime => exact carryOut_keepsCaps (fun _ => rfl) e
  | badOpcode => exact .of_caps (execBadOpcode_caps e)
  | defineAction => exact .of_caps (execDefineAction_caps e)
  | descriptorReadEnd ending => exact .of_caps (execDescriptorReadEnd_caps e)
  | arm => exact carryOut_keepsCaps (fun c => armOwner_caps c s) e
  | disarm => exact carryOut_keepsCaps (fun c => disarmOwner_caps c s) e
  | release => exact carryOut_keepsCaps (fun c => releaseOwner_caps c s) e
  | queryAction => exact carryOut_keepsCaps (fun c => congrArg State.caps (queryOwner_state c s)) e
  | suspend => exact carryOut_keepsCaps (fun c => suspendOwner_caps c s) e
  | resume => exact carryOut_keepsCaps (fun c => resumeOwner_caps c s) e
  | setTime => exact carryOut_keepsCaps (fun c => setTimeOwner_caps c s) e
  | stepTime => exact carryOut_keepsCaps (fun c => stepTimeOwner_caps c s) e
  | adjustTime => exact carryOut_keepsCaps (fun c => adjustTimeOwner_caps c s) e
  | snapTime => exact carryOut_keepsCaps (fun c => snapTimeOwner_caps c s) e
  | configReference => exact carryOut_keepsCaps (fun c => configReferenceOwner_caps c s) e
  | configChannel => exact carryOut_keepsCaps (fun c => configChannelOwner_caps c s) e
  | flushChannel => exact carryOut_keepsCaps (fun c => flushChannelOwner_caps c s) e
  | channelStatus => exact carryOut_keepsCaps (fun c => congrArg State.caps (channelStatusOwner_state c s)) e
  | configCapture => exact (carryOut_capSteps fun c => configCaptureOwner_capSteps c s).of_next e
  | captureStatus => exact carryOut_keepsCaps (fun c => congrArg State.caps (captureStatusOwner_state c s)) e
  | fetchStart | reportWriteStart => cases e; exact .of_caps rfl
  | intStatusWrite | intEnableWrite | intModerationWrite => cases e; exact .of_caps rfl
  | softReset => exact (softResetAll_capSteps s).of_next e
  | fetchEnd ending => exact .of_caps (execFetchEnd_caps e)
  | reportWriteEnd busError => exact .of_caps (execReportWriteEnd_caps e)
  | enableWrite1 => exact (State.CapSteps.of_caps (writeEnable1_caps s)).of_next e
  | enableWrite0 => exact (State.CapSteps.of_caps (writeEnable0_caps s)).of_next e
  | crTailWrite value => exact (State.CapSteps.of_caps (writeCrTail_caps s value)).of_next e
  | rrHeadWrite value => exact (State.CapSteps.of_caps (writeRrHead_caps s value)).of_next e
  | registerWrite offset value => exact execRegisterWrite_capSteps e
  | powerOnReset lines => exact execPowerOnReset_capSteps e
  | refEdge => exact .of_caps (execRefEdge_caps e)
  | windowClose => exact .of_caps (execWindowClose_caps e)
  | transition input => exact execTransition_capSteps e
  | acceptance input => exact execAcceptance_capSteps e
  | expiry => exact .of_caps (execExpiry_caps e)
  | runningSecondBoundary => exact .of_caps (execRunningSecondBoundary_caps e)
  | slewStep => exact .of_caps (execSlewStep_caps e)
  | waitEnd => exact .of_caps (execWaitEnd_caps e)
  | rangeEnd => exact .of_caps (execRangeEnd_caps e)
  | phaseEnd channel => exact .of_caps (execPhaseEnd_caps e)
  | moderationExpiry => exact .of_caps (execModerationExpiry_caps e)
  | monoExhaustion => exact .of_caps (execMonoExhaustion_caps e)
  | fineUnit => exact .of_caps (execFineUnit_caps e)

/-- Settles O10: every command takes each input through steps of chapter 7, and each step keeps its filter coherent. -/
theorem captureFiltersStayCoherent : Obligations.CaptureFiltersStayCoherent :=
  fun _ _ _ sound e k => (exec_capSteps e).sound k (sound k)

end Sys2Proof.Machine
end

section
/-! SUPPORT. CONFIG_CAPTURE and CAPTURE_STATUS (R145, R146), and the transitions of a line (R134, R135). -/

namespace Sys2Proof.Machine

/-! ### The fields -/

section
variable {r : Record}

theorem inputNumberOf_invalid (bad : 4 ≤ (byteAt r 4).toNat) : inputNumberOf r = .error 1 := by
  rw [inputNumberOf, below_of_le bad]

theorem inputNumberOf_valid {k : Fin 4} (number : k.val = (byteAt r 4).toNat) : inputNumberOf r = .ok k := by
  rw [inputNumberOf, ← number, below_of_lt k.isLt]

theorem edgeSelectOf_eq (n : Nat) : edgeSelectOf n =
    if 2 < n then none else some (if n = 0 then .rising else if n = 1 then .falling else .both) := by
  match n with
  | 0 | 1 | 2 => rfl
  | n + 3 => simp [edgeSelectOf]

theorem captureFieldsOf_badNumber (bad : 4 ≤ (byteAt r 4).toNat) : captureFieldsOf r = .error 1 := by
  rw [captureFieldsOf, inputNumberOf_invalid bad]

/-- The fields of CONFIG_CAPTURE with a valid input number, checked in their order (R145). -/
theorem captureFieldsOf_eq {k : Fin 4} (number : k.val = (byteAt r 4).toNat) : captureFieldsOf r =
    if 1 < (byteAt r 5).toNat then .error 2
    else if 2 < (byteAt r 6).toNat then .error 3
    else if 1023 < (le16 r 8).toNat then .error 4
    else if 1 < (byteAt r 10).toNat then .error 5
    else .ok { input := k
               on := decide ((byteAt r 5).toNat = 1)
               select := if (byteAt r 6).toNat = 0 then .rising else if (byteAt r 6).toNat = 1 then .falling else .both
               filter := (le16 r 8).toNat
               report := decide ((byteAt r 10).toNat = 1) } := by
  rw [captureFieldsOf, inputNumberOf_valid number, flagOf_eq, edgeSelectOf_eq, flagOf_eq]
  split_ifs <;> rfl

/-- The edge selection that a valid field 3 names (R136, R145). -/
theorem edgeSelect_named {b : Byte} {select : EdgeSelect}
    (named : b = 0 ∧ select = .rising ∨ b = 1 ∧ select = .falling ∨ b = 2 ∧ select = .both) :
    b.toNat ≤ 2 ∧ (if b.toNat = 0 then .rising else if b.toNat = 1 then .falling else .both) = select := by
  rcases named with ⟨rfl, rfl⟩ | ⟨rfl, rfl⟩ | ⟨rfl, rfl⟩ <;> decide

end

/-! ### The two commands -/

theorem configCaptureOwner_valid {s : State} {c : InHand} {f : CaptureFields} (valid : captureFieldsOf c.record = .ok f) :
    configCaptureOwner c s =
      { state := s.setCap f.input ((s.cap f.input).configure f)
        reply := .now .ok none
          (.captureSet (s.cap f.input).on (s.cap f.input).line (s.cap f.input).count (s.cap f.input).last)
        ended := [] } := by
  rw [configCaptureOwner, valid]
  rfl

/-- Settles O50: each field in its order, and the configured input. -/
theorem captureCommandsConfigureAndRead : Obligations.CaptureCommandsConfigureAndRead := by
  intro s c
  have refused : ∀ n, s.holds c 0x11 → captureFieldsOf c.record = .error n →
      exec .configCapture s = .next (s.answered c .badField (some n) .none) :=
    fun n hold invalid => carryOut_unchanged hold (by rw [configCaptureOwner, invalid]; rfl)
  refine ⟨fun bad => ⟨fun hold => refused 1 hold (captureFieldsOf_badNumber bad), fun hold => ?_⟩,
    fun k number => ⟨fun hold => ?_, fun hold => ?_⟩⟩
  · exact carryOut_unchanged hold (by rw [captureStatusOwner, inputNumberOf_invalid bad]; rfl)
  · exact carryOut_unchanged hold (by rw [captureStatusOwner, inputNumberOf_valid number]; rfl)
  have fields := captureFieldsOf_eq number
  refine ⟨fun bad => ?_, fun mode bad => ?_, fun mode edges bad => ?_, fun mode edges filter bad => ?_,
    fun mode filter report select named => ?_⟩
  · rw [if_pos bad] at fields
    exact refused 2 hold fields
  · rw [if_neg (not_lt.mpr mode), if_pos bad] at fields
    exact refused 3 hold fields
  · rw [if_neg (not_lt.mpr mode), if_neg (not_lt.mpr edges), if_pos bad] at fields
    exact refused 4 hold fields
  · rw [if_neg (not_lt.mpr mode), if_neg (not_lt.mpr edges), if_neg (not_lt.mpr filter), if_pos bad] at fields
    exact refused 5 hold fields
  · obtain ⟨edges, selected⟩ := edgeSelect_named named
    rw [if_neg (not_lt.mpr mode), if_neg (not_lt.mpr edges), if_neg (not_lt.mpr filter), if_neg (not_lt.mpr report),
      selected] at fields
    simp only [toNat_eq_one_iff] at fields
    exact congrArg Host.Outcome.next (carryOut_now 0x11 s _ c _ _ _ _ hold (configCaptureOwner_valid fields) rfl)

/-! ### Transitions -/

theorem level_flip_ne (l : Level) : l.flip ≠ l := by cases l <;> decide

/-- The acceptance of a candidate at its instant, with the write of a record that it brings to an empty queue (R135, R184). -/
theorem exec_acceptance_due {s : State} {k : Fin 4} {x : Candidate} (time : s.time.exhausted = false)
    (on : (s.cap k).on = true) (candidate : (s.cap k).candidate = some x) (due : x.acceptAt = s.time.mono) :
    exec (.acceptance k) s = .next (s.writeStarted (acceptCandidate s k x)) := by
  have now : (!s.time.exhausted && (s.cap k).acceptDue s.mono) = true := by
    simp [Capture.acceptDue, time, on, candidate, due, State.mono]
  show execAcceptance k s = _
  simp only [execAcceptance, if_pos now, candidate, writeOnAcceptance_eq]

theorem exec_transition_repeated {s : State} {k : Fin 4} (moved : (s.cap k).movedAt = some s.time.mono) :
    exec (.transition k) s = .next s := by
  show execTransition k s = _
  simp [execTransition, moved, State.mono]

section
variable {s : State} {k : Fin 4} (time : s.time.exhausted = false) (fresh : (s.cap k).movedAt ≠ some s.time.mono)
include time fresh

theorem exec_transition_off (off : (s.cap k).on = false) :
    exec (.transition k) s = .next (s.setCap k ((s.cap k).moved s.time.mono)) := by
  show execTransition k s = _
  simp [execTransition, time, fresh, off, State.mono, Capture.moved]

theorem exec_transition_return (on : (s.cap k).on = true) (present : (s.cap k).candidate ≠ none) :
    exec (.transition k) s = .next (s.setCap k { (s.cap k).moved s.time.mono with candidate := none }) := by
  show execTransition k s = _
  simp [execTransition, time, fresh, on, Option.isSome_iff_ne_none.mpr present, State.mono, Capture.moved]

/-- A transition away from the filtered level becomes the candidate, and is accepted at once with filter time 0 (R135). -/
theorem exec_transition_seen (on : (s.cap k).on = true) (absent : (s.cap k).candidate = none)
    (settled : (s.cap k).line = (s.cap k).filtered) : exec (.transition k) s = .next
      (if (s.cap k).filter = 0 then writeOnAcceptance s.queued
          (acceptCandidate (s.setCap k ((s.cap k).seen s.time.mono)) k ((s.cap k).candidateAt s.time.mono))
        else s.setCap k ((s.cap k).seen s.time.mono)) := by
  show execTransition k s = _
  simp [execTransition, time, fresh, on, absent, ← settled, level_flip_ne, State.mono, Capture.seen, Capture.candidateAt,
    Capture.moved]

end

/-- With filter time 0 the candidate of a transition is accepted at the transition's instant (R135). -/
theorem exec_acceptance_seen {s : State} {k : Fin 4} (time : s.time.exhausted = false) (on : (s.cap k).on = true)
    (unfiltered : (s.cap k).filter = 0) : exec (.acceptance k) (s.setCap k ((s.cap k).seen s.time.mono)) = .next
      (writeOnAcceptance s.queued
        (acceptCandidate (s.setCap k ((s.cap k).seen s.time.mono)) k ((s.cap k).candidateAt s.time.mono))) := by
  have cap : (s.setCap k ((s.cap k).seen s.time.mono)).cap k = (s.cap k).seen s.time.mono := State.cap_setCap_self _ _ _
  have due : ((s.cap k).candidateAt s.time.mono).acceptAt = s.time.mono := congrArg (s.time.mono + ·) unfiltered
  have time : (s.setCap k ((s.cap k).seen s.time.mono)).time.exhausted = false := time
  rw [exec_acceptance_due time (by rw [cap]; exact on) (by rw [cap]; rfl) due, ← writeOnAcceptance_eq]
  rfl

/-- Settles O51: each state of the filter, with filter time 0 an acceptance at the transition's instant. -/
theorem transitionFeedsTheFilter : Obligations.TransitionFeedsTheFilter := by
  intro s k time
  refine ⟨exec_transition_repeated, fun fresh => ⟨exec_transition_off time fresh, exec_transition_return time fresh,
    fun on absent settled => ?_⟩⟩
  have seen := exec_transition_seen time fresh on absent settled
  refine ⟨fun filtered => ?_, fun unfiltered => ?_⟩
  · rw [if_neg (Nat.ne_of_gt filtered)] at seen
    exact seen
  · rw [if_pos unfiltered] at seen
    exact seen.trans (exec_acceptance_seen time on unfiltered).symm

end Sys2Proof.Machine
end

section
/-! SUPPORT. Accepted edges (R135 to R138, R140): the conversion of a capture-wait set, and what else an acceptance does. -/

namespace Sys2Proof.Machine

/-! ### The conversion of a wait set -/

/-- A WAITING action converted by an edge (R140). -/
def Held.converted (h : Held) (due : Nat) (rearm : Rearm) : Held :=
  { h with
    state := .pending
    nextDue := some ⟨.mono, due⟩
    remaining := match rearm with
      | .once => h.remaining
      | .everyEdge => .ofCount h.action.count }

/-- A member of a wait set stands in no other collection (R139). -/
theorem uncollect_waiting {s : State} {k : Fin 4} {i : SlotId} (sound : s.CollectionsSound)
    (mem : i ∈ s.sched.waits[k.val]) : s.uncollect i =
      s.setSched { s.sched with waits := s.sched.waits.set k.val (s.sched.waits[k.val].filter (· != i)) } := by
  obtain ⟨h, delay, rearm, held, waiting, trigger⟩ := (sound.waits k i).mp mem
  have same : ∀ x, (s.slot i).held = some x → x = h := fun x hx => Option.some.inj (hx.symm.trans held)
  have mono : i ∉ s.sched.monoDue := fun m => by
    obtain ⟨x, n, hx, pending, -⟩ := (sound.mono i).mp m
    rw [same x hx, waiting] at pending; cases pending
  have wall : i ∉ s.sched.wallDue := fun m => by
    obtain ⟨x, n, hx, pending, -⟩ := (sound.wall i).mp m
    rw [same x hx, waiting] at pending; cases pending
  have patterns : i ∉ s.sched.patterns := fun m => by
    obtain ⟨x, hx, watching⟩ := (sound.patterns i).mp m
    rw [same x hx, waiting] at watching; cases watching
  have others : ∀ j : Fin 4, j ≠ k → i ∉ s.sched.waits[j.val] := fun j ne m => by
    obtain ⟨x, d, r, hx, -, other⟩ := (sound.waits j i).mp m
    rw [same x hx, trigger] at other; cases other; exact ne rfl
  have waits : (s.sched.without i).waits = s.sched.waits.set k.val (s.sched.waits[k.val].filter (· != i)) := by
    refine Vector.ext fun n hn => ?_
    rw [s.sched.without_waits i ⟨n, hn⟩, waits_set _ k ⟨n, hn⟩]
    split
    · next e => subst e; rfl
    · next ne => exact filter_ne_of_notMem (others ⟨n, hn⟩ ne)
  have found : s.sched.found.filter (·.slot != i) = s.sched.found :=
    List.filter_eq_self.mpr fun m hm => by simpa using fun e : m.slot = i => patterns (e ▸ (sound.found m hm).1)
  unfold State.uncollect
  rw [← waits]
  simp only [Sched.without, filter_ne_of_notMem mono, filter_ne_of_notMem wall, filter_ne_of_notMem patterns, found]

/-- `t` is `s` with the wait set of input `k` converted by an edge (R140): its slots are PENDING in the mono due list, whose
former entries keep their order, and nothing else is changed. -/
structure State.ConvertsTo (s t : State) (k : Fin 4) (edge : Nat) : Prop where
  frame : t = { s with slots := t.slots, sched := t.sched }
  lists : t.sched = { s.sched with monoDue := t.sched.monoDue, waits := s.sched.waits.set k.val [] }
  order : t.sched.monoDue.filter (fun j => decide (j ∈ s.sched.monoDue)) = s.sched.monoDue
  others : ∀ i, i ∉ s.sched.waits[k.val] → t.slot i = s.slot i
  joined : ∀ i ∈ s.sched.waits[k.val], i ∈ t.sched.monoDue
  converted : ∀ i ∈ s.sched.waits[k.val], ∀ h delay rearm, (s.slot i).held = some h →
    h.action.trigger = .onCapture k delay rearm → t.slot i = ⟨(s.slot i).gen, some (h.converted (edge + delay) rearm)⟩

/-- The conversion of the front of a wait set, written out (R140). -/
theorem convertSlot_front {s : State} {k : Fin 4} {i : SlotId} {l : List SlotId} {h : Held} {delay : Nat} {rearm : Rearm}
    (sound : s.CollectionsSound) (front : s.sched.waits[k.val] = i :: l) (held : (s.slot i).held = some h)
    (trigger : h.action.trigger = .onCapture k delay rearm) (edge : Nat) : convertSlot edge s i =
      ({ s with sched := { s.sched with monoDue := s.joined i (edge + delay) s.sched.monoDue,
                                        waits := s.sched.waits.set k.val l } } : State).withSlot i
        ⟨(s.slot i).gen, some (h.converted (edge + delay) rearm)⟩ := by
  have once : (i :: l).Nodup := front ▸ sound.once.2.2.2 k
  have left : s.sched.waits[k.val].filter (· != i) = l := by
    rw [front, List.filter_cons_of_neg (by simp), filter_ne_of_notMem (List.nodup_cons.mp once).1]
  unfold convertSlot
  simp only [held, trigger, uncollect_waiting sound (front ▸ List.mem_cons_self), left]
  rw [State.pend_mono_eq]
  cases rearm <;> rfl

/-- A due list without the entry that has joined it. -/
theorem joined_filter_mem {s : State} {i : SlotId} {due : Nat} {l : List SlotId} (absent : i ∉ l) :
    (s.joined i due l).filter (fun j => decide (j ∈ l)) = l := by
  rw [State.joined, List.filter_append, List.filter_cons_of_neg (by simpa using absent), ← List.filter_append,
    List.takeWhile_append_dropWhile]
  exact List.filter_eq_self.mpr fun j mem => by simpa using mem

/-- A conversion leaves the other blocks alone (R140). -/
theorem State.ConvertsTo.blocks {s t : State} {k : Fin 4} {edge : Nat} (c : s.ConvertsTo t k edge) :
    t.reports = s.reports ∧ t.irq = s.irq ∧ t.caps = s.caps ∧ t.chans = s.chans ∧ t.time = s.time ∧ t.wall = s.wall ∧
      t.port = s.port ∧ t.cmd = s.cmd := by
  rw [c.frame]
  exact ⟨rfl, rfl, rfl, rfl, rfl, rfl, rfl, rfl⟩

/-- A conversion empties the wait set, and leaves the other collections but the mono due list alone (R140). -/
theorem State.ConvertsTo.collections {s t : State} {k : Fin 4} {edge : Nat} (c : s.ConvertsTo t k edge) :
    t.sched.state = s.sched.state ∧ t.sched.wallDue = s.sched.wallDue ∧ t.sched.patterns = s.sched.patterns ∧
      t.sched.taken = s.sched.taken ∧ t.sched.found = s.sched.found ∧ t.sched.waits = s.sched.waits.set k.val [] := by
  rw [c.lists]
  exact ⟨rfl, rfl, rfl, rfl, rfl, rfl⟩

/-- An empty wait set converts to nothing (R140). -/
theorem convertsTo_of_nil {s : State} {k : Fin 4} (empty : s.sched.waits[k.val] = []) (edge : Nat) : s.ConvertsTo s k edge where
  frame := rfl
  lists := by
    have same : s.sched.waits.set k.val [] = s.sched.waits := by rw [← empty, Vector.set_getElem_self]
    rw [same]
  order := List.filter_eq_self.mpr fun j mem => by simpa using mem
  others := fun _ _ => rfl
  joined := fun i mem => by rw [empty] at mem; cases mem
  converted := fun i mem => by rw [empty] at mem; cases mem

/-- The front of a wait set is converted, and then the rest (R140). -/
theorem convertsTo_of_cons {s t : State} {k : Fin 4} {i : SlotId} {l : List SlotId} {edge : Nat} (sound : s.CollectionsSound)
    (front : s.sched.waits[k.val] = i :: l) (rest : (convertSlot edge s i).ConvertsTo t k edge) : s.ConvertsTo t k edge := by
  have once : i ∉ l ∧ l.Nodup := List.nodup_cons.mp (front ▸ sound.once.2.2.2 k)
  obtain ⟨h, delay, rearm, held, waiting, trigger⟩ := (sound.waits k i).mp (front ▸ List.mem_cons_self)
  have absent : i ∉ s.sched.monoDue := fun m => by
    obtain ⟨x, n, hx, pending, -⟩ := (sound.mono i).mp m
    rw [Option.some.inj (hx.symm.trans held), waiting] at pending; cases pending
  have first := convertSlot_front sound front held trigger edge
  generalize convertSlot edge s i = u at first rest
  have waits : u.sched.waits = s.sched.waits.set k.val l := by rw [first]; rfl
  have left : u.sched.waits[k.val] = l := by rw [waits, waits_set, if_pos rfl]
  have mono : u.sched.monoDue = s.joined i (edge + delay) s.sched.monoDue := by rw [first]; rfl
  have own : u.slot i = ⟨(s.slot i).gen, some (h.converted (edge + delay) rearm)⟩ := by
    rw [first]; exact State.slot_setSlot_self _ _ _
  have other : ∀ j, j ≠ i → u.slot j = s.slot j := fun j ne => by
    rw [first]; exact State.slot_setSlot_of_ne _ _ ne
  have grown : ∀ j, j ∈ s.sched.monoDue → j ∈ u.sched.monoDue := fun j mem => by
    rw [mono, ← insertDue_joined]; exact mem_insertDue.mpr (.inr mem)
  have still : ∀ j, j ∈ u.sched.monoDue → j ∈ t.sched.monoDue := fun j mem => by
    rw [← rest.order] at mem; exact (List.mem_filter.mp mem).1
  constructor
  case frame => rw [rest.frame, first]; rfl
  case lists => rw [rest.lists, first]; simp [State.withSlot]
  case order =>
    have both : ∀ j, (decide (j ∈ s.sched.monoDue) && decide (j ∈ u.sched.monoDue)) = decide (j ∈ s.sched.monoDue) :=
      fun j => by simpa using grown j
    calc t.sched.monoDue.filter (fun j => decide (j ∈ s.sched.monoDue))
      _ = (t.sched.monoDue.filter fun j => decide (j ∈ u.sched.monoDue)).filter fun j => decide (j ∈ s.sched.monoDue) := by
        simp only [List.filter_filter, both]
      _ = s.sched.monoDue := by rw [rest.order, mono, joined_filter_mem absent]
  case others =>
    intro j out
    rw [front, List.mem_cons, not_or] at out
    rw [rest.others j (by rw [left]; exact out.2), other j out.1]
  case joined =>
    intro j mem
    rw [front, List.mem_cons] at mem
    rcases mem with rfl | mem
    · exact still j (by rw [mono, ← insertDue_joined]; exact mem_insertDue.mpr (.inl rfl))
    · exact rest.joined j (by rw [left]; exact mem)
  case converted =>
    intro j mem x delay' rearm' hx trigger'
    rw [front, List.mem_cons] at mem
    rcases mem with rfl | mem
    · obtain rfl : x = h := Option.some.inj (hx.symm.trans held)
      cases trigger.symm.trans trigger'
      rw [rest.others j (by rw [left]; exact once.1), own]
    · have ne : j ≠ i := fun e => once.1 (e ▸ mem)
      rw [rest.converted j (by rw [left]; exact mem) x delay' rearm' (by rw [other j ne]; exact hx) trigger', other j ne]

/-- A sound wait set is converted as a whole (R140). -/
theorem convert_convertsTo {s : State} (sound : s.CollectionsSound) (k : Fin 4) (edge : Nat) :
    s.ConvertsTo (convert s k edge) k edge := by
  have fold : ∀ (l : List SlotId) (u : State), u.CollectionsSound → u.sched.waits[k.val] = l →
      u.ConvertsTo (l.foldl (convertSlot edge) u) k edge := by
    intro l
    induction l with
    | nil => exact fun u _ empty => convertsTo_of_nil empty edge
    | cons i l ih =>
      intro u sound front
      refine convertsTo_of_cons sound front (ih _ (sound.moves (convertSlot_moves edge u i)) ?_)
      obtain ⟨h, delay, rearm, held, -, trigger⟩ := (sound.waits k i).mp (front ▸ List.mem_cons_self)
      rw [convertSlot_front sound front held trigger edge]
      exact (waits_set _ k k l).trans (if_pos rfl)
  exact fold _ s sound rfl

/-! ### The edge reported -/

theorem polarityTo_eq (l : Level) : polarityTo l = if l = .high then .rising else .falling := by cases l <;> rfl

/-- The edges that a selection takes (R136). -/
theorem selects_polarityTo (e : EdgeSelect) (l : Level) : e.selects (polarityTo l) = true ↔
    e = .both ∨ e = .rising ∧ l = .high ∨ e = .falling ∧ l = .low := by
  cases e with
  | both => simp [EdgeSelect.selects]
  | rising | falling => cases l <;> simp [EdgeSelect.selects, polarityTo]

/-- The wall edge instant of a CAPTURE report (R138). -/
theorem State.wallOf_eq (s : State) (n : Nat) : s.wallOf n =
    if s.wall.state ≠ .unset ∧ 0 ≤ (n : Int) + s.wall.offset then some ((n : Int) + s.wall.offset).toNat else none := by
  simp [State.wallOf, Wall.active]

/-- An input after a selected edge: counted and recorded with its transition instant (R137). -/
def Capture.edged (k : Capture) (x : Candidate) : Capture :=
  { k.believed x with
    count := (k.count + 1) % 2 ^ 32
    last := some { instant := x.instant, polarity := if x.level = .high then .rising else .falling } }

/-- The part after a selected edge of input `k`, before the scheduler has it (R137, R138). -/
def State.edgeTold (s : State) (k : Fin 4) (x : Candidate) : State :=
  if (s.cap k).report = true ∧ s.port.state ≠ .halted then
    offer (s.withCap k ((s.cap k).edged x)) (.capture
      { input := k, polarity := if x.level = .high then .rising else .falling, instant := x.instant,
        wall := if s.wall.state ≠ .unset ∧ 0 ≤ (x.instant : Int) + s.wall.offset then
            some ((x.instant : Int) + s.wall.offset).toNat
          else none
        number := ((s.cap k).count + 1) % 2 ^ 32 })
  else s.withCap k ((s.cap k).edged x)

theorem edgeTold_offersFrom (s : State) (k : Fin 4) (x : Candidate) :
    (s.withCap k ((s.cap k).edged x)).OffersFrom (s.edgeTold k x) := by
  unfold State.edgeTold
  split
  · exact offer_offersFrom _ _ rfl
  · exact .refl _

theorem State.setCap_setCap (s : State) (k : Fin 4) (a b : Capture) : (s.setCap k a).setCap k b = s.setCap k b := by
  simp [State.setCap, State.setCaps]

theorem acceptCandidate_unselected {s : State} {k : Fin 4} {x : Candidate}
    (selected : ¬ (s.cap k).select.selects (polarityTo x.level) = true) :
    acceptCandidate s k x = s.setCap k ((s.cap k).believed x) := if_neg selected

theorem acceptCandidate_selected {s : State} {k : Fin 4} {x : Candidate}
    (selected : (s.cap k).select.selects (polarityTo x.level) = true) : acceptCandidate s k x =
      if s.sched.state = .halted then s.edgeTold k x else convert (s.edgeTold k x) k x.instant := by
  have told : s.edgeTold k x =
      if (s.cap k).report && s.port.state != .halted then
        offer (s.setCap k ((s.cap k).edged x)) (.capture
          { input := k, polarity := polarityTo x.level, instant := x.instant, wall := s.wallOf x.instant,
            number := ((s.cap k).count + 1) % 4294967296 })
      else s.setCap k ((s.cap k).edged x) := by
    rw [s.wallOf_eq, polarityTo_eq]
    simp only [Bool.and_eq_true, bne_iff_ne]
    rfl
  rw [told]
  unfold acceptCandidate acceptedEdge
  rw [if_pos selected]
  simp only [State.cap_setCap_self, State.setCap_setCap]
  rw [Capture.edged, ← polarityTo_eq]
  rfl

/-- Settles O52: the filtered level, the edge told, and the wait set converted in the state that has been told. -/
theorem acceptedEdgeConvertsTheWaitSet : Obligations.AcceptedEdgeConvertsTheWaitSet := by
  intro s k x time on candidate due found selected polarity number after wall told
  have taken := exec_acceptance_due time on candidate due
  have offered : (s.withCap k after).OffersFrom told := edgeTold_offersFrom s k x
  refine ⟨fun unselected => ?_, fun sel none => ?_, fun sel active sound => ?_⟩
  · rw [taken, acceptCandidate_unselected fun e => unselected ((selects_polarityTo _ _).mp e)]
    exact congrArg Host.Outcome.next (writeStarted_quiet rfl)
  · rw [taken, acceptCandidate_selected ((selects_polarityTo _ _).mpr sel)]
    split
    · rfl
    · next active =>
      have empty : told.sched.waits[k.val] = [] := by rw [offered.sched]; exact none.resolve_left active
      have unconverted : convert told k x.instant = told := by rw [convert, empty]; rfl
      exact congrArg (fun t => Host.Outcome.next (s.writeStarted t)) unconverted
  · rw [acceptCandidate_selected ((selects_polarityTo _ _).mpr sel), if_neg active] at taken
    have soundTold : told.CollectionsSound := sound.quiet (.of_eqs offered.slots offered.sched offered.wall)
    have c : told.ConvertsTo (convert told k x.instant) k x.instant := convert_convertsTo soundTold k x.instant
    have sched : told.sched = s.sched := offered.sched
    have slot : ∀ i, told.slot i = s.slot i := State.slot_congr offered.slots
    obtain ⟨reports, irq, caps, chans, time, clock, port, cmd⟩ := c.blocks
    have collections := c.collections
    obtain ⟨-, -, order, others, joined, converted⟩ := c
    rw [sched] at collections order others joined converted
    obtain ⟨state, wallDue, patterns, takings, foundKept, waits⟩ := collections
    refine ⟨_, taken, reports, irq, caps, chans.trans offered.chans, time.trans offered.time, clock.trans offered.wall,
      port.trans offered.port, cmd.trans offered.cmd, state, wallDue, patterns, takings, foundKept, waits, order,
      fun i out => (others i out).trans (slot i), fun i mem => ⟨joined i mem, fun h delay rearm held trigger => ?_⟩⟩
    rw [← slot] at held ⊢
    refine (converted i mem h delay rearm held trigger).trans ?_
    cases rearm <;> rfl

end Sys2Proof.Machine
end

section
/-! SUPPORT. The accounts of the report queue within an event (R155, R173, R180, R181): what an event owes and holds, and that the
scheduler's and the clocks' operations keep these accounts and leave the port, the command in hand and the write in flight
alone. -/

namespace Sys2Proof.Machine

/-! ### The accounts -/

/-- The entries that the deferred commands hold (R173). -/
def State.deferred (s : State) : Nat := s.cmd.adjust.isSome.toNat + s.cmd.snap.isSome.toNat

/-- Records and reservations together (R180). -/
def State.load (s : State) : Nat := s.reports.records.length + s.reports.reservations

/-- The accounts of a state within an event, with `held` reservations for others than the deferred commands: the fetch in
flight, the command in hand, and the completions that the event has still to accept. -/
structure State.Books (s : State) (held : Nat) : Prop where
  adjust : s.cmd.adjust.isSome = s.wall.slew.isSome
  snap : s.cmd.snap.isSome = s.wall.snap.isSome
  reserved : s.reports.reservations = held + s.deferred
  room : s.load ≤ 32
  resting : ¬ s.port.state.serving → s.reports.records = [] ∧ s.reports.reservations = 0

/-- What no event but the port's own touches: the port, the command in hand, and the write in flight. The records and
reservations are never fewer, since each reservation is given back for a record (R181). -/
structure State.EventFrame (s t : State) : Prop where
  port : t.port = s.port
  unit : t.cmd.state = s.cmd.state
  write : t.reports.write = s.reports.write
  queued : s.queued ≤ t.queued
  load : s.load ≤ t.load

/-- `t` comes from `s` within an event that has ended the waits of `ended` deferred commands, whose completions it has still to
accept. -/
structure State.Event (s t : State) (ended : Nat) : Prop extends s.EventFrame t where
  books : ∀ held, s.Books held → t.Books (held + ended)

theorem State.EventFrame.trans {s t u : State} (h : s.EventFrame t) (k : t.EventFrame u) : s.EventFrame u where
  port := k.port.trans h.port
  unit := k.unit.trans h.unit
  write := k.write.trans h.write
  queued := h.queued.trans k.queued
  load := h.load.trans k.load

theorem State.Event.trans {s t u : State} {m n : Nat} (h : s.Event t m) (k : t.Event u n) : s.Event u (m + n) where
  toEventFrame := h.toEventFrame.trans k.toEventFrame
  books held books := by
    rw [← Nat.add_assoc]
    exact k.books _ (h.books held books)

/-- What leaves the port, the command unit and the queue alone, and neither begins nor ends a slew or a pending SNAP. -/
theorem State.event_of_eqs {s t : State} (port : t.port = s.port) (cmd : t.cmd = s.cmd) (reports : t.reports = s.reports)
    (slew : t.wall.slew.isSome = s.wall.slew.isSome) (snap : t.wall.snap.isSome = s.wall.snap.isSome) : s.Event t 0 where
  port := port
  unit := by rw [cmd]
  write := by rw [reports]
  queued := by rw [State.queued, State.queued, reports]
  load := by rw [State.load, State.load, reports]
  books held books := by
    refine ⟨?_, ?_, ?_, ?_, ?_⟩
    · rw [cmd, slew]; exact books.adjust
    · rw [cmd, snap]; exact books.snap
    · rw [State.deferred, cmd, reports]; exact books.reserved
    · rw [State.load, reports]; exact books.room
    · rw [port, reports]; exact books.resting

theorem State.Event.refl (s : State) : s.Event s 0 := State.event_of_eqs rfl rfl rfl rfl rfl

/-- A change of other blocks comes first. -/
theorem State.Event.after {s t u : State} {n : Nat} (k : t.Event u n) (h : s.Event t 0) : s.Event u n := by
  have both := h.trans k
  rwa [Nat.zero_add] at both

/-- An event that ends nothing more comes last. -/
theorem State.Event.before {s t u : State} {n : Nat} (h : s.Event t n) (k : t.Event u 0) : s.Event u n := h.trans k

theorem State.SchedulesFrom.event {s t : State} (h : s.SchedulesFrom t) (reports : t.reports = s.reports) : s.Event t 0 :=
  State.event_of_eqs h.port h.cmd reports (by rw [h.wall]) (by rw [h.wall])

/-! ### Event reports -/

/-- Where the port is not RUNNING an event report is dropped (R182). -/
theorem offer_stopped {s : State} (r : Report) (stopped : s.port.state ≠ .running) :
    (offer s r).reports.records = s.reports.records := by
  rw [offer, if_neg (fun h => stopped h.1), dropReport_reports]

theorem offer_event (s : State) (r : Report) (own : r.isCompletion = false) : s.Event (offer s r) 0 := by
  have offers := offer_offersFrom s r own
  obtain ⟨added, records, -⟩ := offers.records
  refine ⟨⟨offers.port, by rw [offers.cmd], offers.write, offers.schedulesFrom.queued_le, ?_⟩,
    fun held books => ⟨?_, ?_, ?_, ?_, ?_⟩⟩
  · rw [State.load, State.load, records, offers.reservations, List.length_append]; omega
  · rw [offers.cmd, offers.wall]; exact books.adjust
  · rw [offers.cmd, offers.wall]; exact books.snap
  · rw [State.deferred, offers.cmd, offers.reservations]; exact books.reserved
  · exact offer_room s r books.room
  · intro idle
    rw [offers.port] at idle
    rw [offer_stopped r fun running => idle (.inl running), offers.reservations]
    exact books.resting idle

theorem offerDones_event (s : State) (ds : List DoneReport) : s.Event (offerDones s ds) 0 := by
  induction ds generalizing s with
  | nil => exact .refl s
  | cons d ds ih => exact (ih (offer s (.done d))).after (offer_event s _ rfl)

theorem offerIf_event (on : Bool) (s : State) (r : Report) (own : r.isCompletion = false) : s.Event (offerIf on s r) 0 := by
  unfold offerIf
  split
  · exact offer_event s r own
  · exact .refl s

theorem offerReference_event (s : State) (old : DiscState) : s.Event (offerReference s old) 0 := by
  unfold offerReference
  dsimp only
  split
  · exact .refl s
  · exact offer_event s _ rfl

/-! ### Completions -/

theorem acceptAll_length {t : State} {cs : List Completion} {base : Nat} (old : base ≤ t.queued) :
    (acceptAll base t cs).reports.records.length = t.reports.records.length + cs.length := by
  obtain ⟨order, perm, records⟩ := (acceptAll_acceptsFrom base cs t old).records
  have size := perm.length_eq
  rw [records]
  simp only [List.length_append, List.length_take, List.length_drop, List.length_map, State.queued] at size old ⊢
  omega

theorem State.EventFrame.accepted {s t : State} {cs : List Completion} {base : Nat} (h : s.EventFrame t)
    (old : base ≤ t.queued) : s.EventFrame (acceptAll base t cs) := by
  have accepts := acceptAll_acceptsFrom base cs t old
  refine ⟨accepts.port.trans h.port, by rw [accepts.cmd, h.unit], accepts.write.trans h.write,
    h.queued.trans accepts.queued_le, h.load.trans ?_⟩
  rw [State.load, State.load, acceptAll_length old, accepts.reservations]
  omega

/-- The completions that an event owes are accepted into the entries that their reservations hold (R181). -/
theorem State.Books.accepted {t : State} {held : Nat} {cs : List Completion} {base : Nat} (books : t.Books (held + cs.length))
    (old : base ≤ t.queued) : (acceptAll base t cs).Books held := by
  have accepts := acceptAll_acceptsFrom base cs t old
  have length := acceptAll_length (cs := cs) old
  have reserved := books.reserved
  have room := books.room
  refine ⟨?_, ?_, ?_, ?_, fun idle => ?_⟩
  · rw [accepts.cmd, accepts.wall]; exact books.adjust
  · rw [accepts.cmd, accepts.wall]; exact books.snap
  · rw [accepts.reservations, State.deferred, accepts.cmd, ← State.deferred]; omega
  · rw [State.load] at room ⊢
    rw [length, accepts.reservations]; omega
  · rw [accepts.port] at idle
    obtain ⟨records, none⟩ := books.resting idle
    rw [← List.length_eq_zero_iff, length, accepts.reservations, records, List.length_nil]
    omega

theorem State.Event.accepted {s t : State} {cs : List Completion} {base : Nat} (h : s.Event t cs.length)
    (old : base ≤ t.queued) : s.Event (acceptAll base t cs) 0 where
  toEventFrame := h.toEventFrame.accepted old
  books held books := (h.books held books).accepted old

/-- The end of a slew leaves the completion of its ADJUST_TIME to be accepted (R79, R174). -/
theorem stopSlew_event (s : State) (status : Status) : s.Event s.stopSlew (s.adjustEnds status).length := by
  refine ⟨⟨rfl, rfl, rfl, le_rfl, le_rfl⟩, fun held books => ⟨rfl, books.snap, ?_, books.room, books.resting⟩⟩
  have split : s.deferred = (s.adjustEnds status).length + s.stopSlew.deferred := by
    rw [adjustEnds_length, ← books.adjust]
    cases e : s.cmd.adjust <;> simp [State.deferred, State.stopSlew, e]
  rw [Nat.add_assoc, ← split]
  exact books.reserved

/-- The end of a pending SNAP leaves the completion of its SNAP_TIME to be accepted (R84, R85, R174). -/
theorem dropSnap_event (s : State) (status : Status) (fieldNo : Option Nat) (results : Results) :
    s.Event s.dropSnap (s.snapEnds status fieldNo results).length := by
  refine ⟨⟨rfl, rfl, rfl, le_rfl, le_rfl⟩, fun held books => ⟨books.adjust, rfl, ?_, books.room, books.resting⟩⟩
  have split : s.deferred = (s.snapEnds status fieldNo results).length + s.dropSnap.deferred := by
    rw [snapEnds_length, ← books.snap]
    cases e : s.cmd.snap <;> simp [State.deferred, State.dropSnap, e, Nat.add_comm]
  rw [Nat.add_assoc, ← split]
  exact books.reserved

/-! ### Occurrences taken -/

theorem retire_reports (s : State) (i : SlotId) (h : Held) : (s.retire i h).reports = s.reports := by
  unfold State.retire
  split <;> rfl

theorem endRun_reports (s : State) (i : SlotId) (h : Held) : (s.endRun i h).reports = s.reports := by
  unfold State.endRun
  split
  · rfl
  · exact retire_reports s i h

theorem armSlot_reports (s : State) (i : SlotId) (a : Action) (now : Nat) : (s.armSlot i a now).reports = s.reports := by
  unfold State.armSlot
  dsimp only
  split <;> rfl

theorem followOf_reports (s : State) (i : FireInst) (completion : Nat) : (s.followOf i completion).1.reports = s.reports := by
  unfold State.followOf State.follow
  split
  · split
    · rfl
    split
    · rfl
    split
    · exact armSlot_reports s _ _ _
    · rfl
  · rfl

theorem endRun_event (s : State) (i : SlotId) (h : Held) : s.Event (s.endRun i h) 0 :=
  (endRun_schedulesFrom s i h).event (endRun_reports s i h)

theorem followOf_event (s : State) (i : FireInst) (completion : Nat) : s.Event (s.followOf i completion).1 0 :=
  (followOf_schedulesFrom s i completion).event (followOf_reports s i completion)

theorem setChan_event (s : State) (ch : Fin 8) (c : Channel) : s.Event (s.setChan ch c) 0 :=
  State.event_of_eqs rfl rfl rfl rfl rfl

theorem completeEventOnly_event (s : State) (i : FireInst) : s.Event (completeEventOnly s i) 0 :=
  (offerDones_event _ _).after (followOf_event s i s.mono)

theorem fireOccurrence_event (s : State) (a : Action) (o : Occurrence) (lateness : Nat) :
    s.Event (fireOccurrence s a o lateness) 0 := by
  unfold fireOccurrence
  dsimp only
  split
  · exact (offerIf_event _ _ _ rfl).after ((offerDones_event _ _).after (setChan_event s _ _))
  · exact (completeEventOnly_event _ _).after (offerIf_event _ _ _ rfl)

theorem fireOrSkip_event (s : State) (a : Action) (o : Occurrence) (lateness : Nat) :
    s.Event (fireOrSkip s a o lateness) 0 := by
  unfold fireOrSkip
  split
  · exact fireOccurrence_event s a o lateness
  · exact offerIf_event _ _ _ rfl

theorem takeOne_event (s : State) (k : Taking) : s.Event (takeOne s k) 0 := by
  cases k with
  | entry i =>
    show s.Event (takeEntry s i) 0
    unfold takeEntry
    split
    · exact .refl s
    split
    · exact .refl s
    · refine (fireOrSkip_event _ _ _ _).after ?_
      split
      · exact State.event_of_eqs rfl rfl rfl rfl rfl
      · exact (endRun_event ((s.markTaken i).uncollect i) i _).after (State.event_of_eqs rfl rfl rfl rfl rfl)
  | found m =>
    show s.Event (takeMatch s m) 0
    unfold takeMatch
    dsimp only
    split
    · exact .refl s
    · refine (fireOrSkip_event _ _ _ _).after ?_
      split
      · exact (endRun_event _ m.slot _).after (State.event_of_eqs rfl rfl rfl rfl rfl)
      · exact State.event_of_eqs rfl rfl rfl rfl rfl

theorem takeAll_event (s : State) : s.Event (takeAll s) 0 :=
  takeAll_induction (P := fun t => s.Event t 0) (fun _ k h => (takeOne_event _ k).after h) s (.refl s)

theorem offerSecond_event (s : State) (second : Nat) : s.Event (s.offerSecond second) 0 := by
  unfold State.offerSecond
  split <;> exact State.event_of_eqs rfl rfl rfl rfl rfl

theorem changeSchedule_event (s : State) (forward : Bool) (landing : Option Nat) :
    s.Event (changeSchedule s forward landing) 0 := by
  unfold changeSchedule
  split
  · split
    · exact takeAll_event s
    · exact .refl s
  · split
    · exact (takeAll_event _).after (offerSecond_event s _)
    · exact .refl s

theorem resumed_event (s : State) : s.Event (resumed s) 0 := by
  have begun : s.Event (takeAll (s.setSched { s.sched with state := .running, found := [] })) 0 :=
    (takeAll_event _).after (State.event_of_eqs rfl rfl rfl rfl rfl)
  unfold resumed
  dsimp only
  split
  · exact (takeAll_event _).after ((offerSecond_event _ _).after begun)
  · exact begun

/-! ### Captures and the wall clock -/

theorem foldl_event {f : State → SlotId → State} (step : ∀ (s : State) (i : SlotId), s.Event (f s i) 0) (l : List SlotId)
    (s : State) : s.Event (l.foldl f s) 0 := by
  induction l generalizing s with
  | nil => exact .refl s
  | cons i l ih => exact (ih (f s i)).after (step s i)

theorem convertSlot_event (edge : Nat) (s : State) (i : SlotId) : s.Event (convertSlot edge s i) 0 := by
  unfold convertSlot
  split
  · exact .refl s
  · split
    · exact State.event_of_eqs rfl rfl rfl rfl rfl
    · exact .refl s

theorem loseSlot_event (s : State) (i : SlotId) : s.Event (loseSlot s i) 0 := by
  unfold loseSlot
  split
  · exact .refl s
  · exact (retire_schedulesFrom s i _).event (retire_reports s i _)

theorem acceptedEdge_event (s : State) (k : Fin 4) (instant : Nat) (p : Polarity) : s.Event (acceptedEdge s k instant p) 0 := by
  have counted : ∀ c, s.Event (s.setCap k c) 0 := fun c => State.event_of_eqs rfl rfl rfl rfl rfl
  have converted : ∀ u, State.Event u (convert u k instant) 0 := fun u => foldl_event (convertSlot_event instant) _ u
  unfold acceptedEdge
  dsimp only
  split <;> split
  · exact (offer_event _ _ rfl).after (counted _)
  · exact counted _
  · exact (converted _).after ((offer_event _ _ rfl).after (counted _))
  · exact (converted _).after (counted _)

theorem acceptCandidate_event (s : State) (k : Fin 4) (x : Candidate) : s.Event (acceptCandidate s k x) 0 := by
  have believed : ∀ c, s.Event (s.setCap k c) 0 := fun c => State.event_of_eqs rfl rfl rfl rfl rfl
  unfold acceptCandidate
  dsimp only
  split
  · exact (acceptedEdge_event _ _ _ _).after (believed _)
  · exact believed _

/-- A range end accepts the completions of the slew and the SNAP that it ends (R88). -/
theorem rangeEnd_event (s : State) : s.Event (rangeEnd s) 0 := by
  have ended := (stopSlew_event s .superseded).trans (dropSnap_event s.stopSlew .cancelled none .noChange)
  have removed : s.stopSlew.dropSnap.Event s.unwalled 0 :=
    (State.event_of_eqs rfl rfl rfl rfl rfl : State.Event (s.sched.wallBound.foldl loseSlot s.stopSlew.dropSnap) s.unwalled 0).after
      (foldl_event loseSlot_event _ _)
  have told := ended.trans (removed.trans (offer_event s.unwalled
    (.wallLost s.sched.wallBound.length Config.wallLast s.mono) rfl))
  have length : s.rangeEnded.length = (s.adjustEnds .superseded).length + (s.snapEnds .cancelled none .noChange).length :=
    List.length_append
  refine State.Event.accepted (cs := s.rangeEnded) ?_ told.queued
  rw [length]
  exact told

/-- A wall change ends a slew, whose completion it leaves to be accepted (R73). -/
theorem wallChange_event (s : State) (new : Nat) : s.Event (wallChange s new).1 (wallChange s new).2.length := by
  have ended : (wallChange s new).2 = s.adjustEnds .superseded := rfl
  have scheduled : ∀ (u : State) (forward : Bool) (landing : Option Nat), s.Event u (s.adjustEnds .superseded).length →
      s.Event (changeSchedule u forward landing) (s.adjustEnds .superseded).length :=
    fun u forward landing event => event.before (changeSchedule_event u forward landing)
  have moved : ∀ u, s.stopSlew.Event u 0 → s.Event u (s.adjustEnds .superseded).length :=
    fun u event => (stopSlew_event s .superseded).before event
  rw [ended]
  unfold wallChange
  dsimp only
  split
  · exact moved _ (State.event_of_eqs rfl rfl rfl rfl rfl)
  split
  · exact scheduled _ _ _ (moved _ (State.event_of_eqs rfl rfl rfl rfl rfl))
  split
  · split
    · refine State.Event.before ?_ (rangeEnd_event _)
      exact scheduled _ _ _ (moved _ (State.event_of_eqs rfl rfl rfl rfl rfl))
    · exact scheduled _ _ _ (moved _ (State.event_of_eqs rfl rfl rfl rfl rfl))
  · exact scheduled _ _ _ (moved _ (State.event_of_eqs rfl rfl rfl rfl rfl))

theorem applySnap_event (s : State) : s.Event (applySnap s) 0 := by
  unfold applySnap
  split
  · exact .refl s
  · dsimp only
    split
    · have changed := fun status fieldNo results new =>
        (dropSnap_event s status fieldNo results).trans (wallChange_event s.dropSnap new)
      refine State.Event.accepted ?_ (changed .ok none .none _).queued
      rw [List.length_append, Nat.add_comm]
      exact changed _ _ _ _
    · exact (dropSnap_event s _ _ _).accepted le_rfl

end Sys2Proof.Machine
end

section
/-! SUPPORT. How an event ends: the starts that it contains keep the accounts of the report queue, and the port's own events keep
them (R155, R160, R161, R181, R184). -/

namespace Sys2Proof.Machine

/-! ### Between the events -/

/-- The entries that the fetch in flight and the command in hand hold (R181). -/
def State.occupied (s : State) : Nat :=
  s.port.fetch.isSome.toNat +
    match s.cmd.state with
    | .idle => 0
    | .holding _ | .reading _ => 1

theorem owed_eq (s : State) : s.owed = s.occupied + s.deferred := by
  have bit : ∀ b : Bool, (if b = true then 1 else 0) = b.toNat := by decide
  rw [State.owed, State.occupied, State.deferred, bit, bit, bit]
  cases s.cmd.state <;> simp only <;> omega

theorem occupied_of_idle {s : State} (fetch : s.port.fetch = none) (idle : s.cmd.state = .idle) : s.occupied = 0 := by
  rw [State.occupied, fetch, idle]; rfl

theorem occupied_of_unit {s : State} (fetch : s.port.fetch = none) (busy : s.cmd.state ≠ .idle) : s.occupied = 1 := by
  rw [State.occupied, fetch]
  cases e : s.cmd.state with
  | idle => exact absurd e busy
  | holding | reading => rfl

theorem occupied_of_fetch {s : State} (fetch : s.port.fetch ≠ none) (idle : s.cmd.state = .idle) : s.occupied = 1 := by
  rw [State.occupied, Option.isSome_iff_ne_none.mpr fetch, idle]; rfl

/-- No write of a front record that could start is left unstarted (R184). -/
def State.Writing (s : State) : Prop :=
  s.reports.records ≠ [] → s.reports.write = none → nextIndex s.port.rrTail s.port.rrSize = s.port.rrHead

/-- A sound report queue but for a fetch that may be left unstarted. -/
structure State.Accounted (s : State) : Prop where
  books : s.Books s.occupied
  alone : s.port.fetch.isSome = true → s.cmd.state = .idle
  writing : s.Writing

theorem State.Accounted.of_occupied {s : State} {n : Nat} (occupied : s.occupied = n) (books : s.Books n)
    (alone : s.port.fetch.isSome = true → s.cmd.state = .idle) (writing : s.Writing) : s.Accounted :=
  ⟨by rw [occupied]; exact books, alone, writing⟩

theorem State.QueueSound.accounted {s : State} (sound : s.QueueSound) : s.Accounted where
  books := ⟨sound.adjust, sound.snap, by rw [← owed_eq]; exact sound.owed, sound.room, sound.resting⟩
  alone := sound.alone
  writing := sound.writing

theorem State.Accounted.queueSound {s : State} (h : s.Accounted)
    (fetching : s.port.state = .running → s.port.crHead ≠ s.port.crTail → s.cmd.state = .idle → s.port.fetch = none →
      s.load = 32) : s.QueueSound where
  room := h.books.room
  owed := by rw [owed_eq]; exact h.books.reserved
  adjust := h.books.adjust
  snap := h.books.snap
  alone := h.alone
  resting := h.books.resting
  fetching := fetching
  writing := h.writing

/-- With a command in the unit no fetch is in flight (R160). -/
theorem State.QueueSound.fetch_of_busy {s : State} (sound : s.QueueSound) (busy : s.cmd.state ≠ .idle) :
    s.port.fetch = none := by
  by_contra fetch
  exact busy (sound.alone (Option.isSome_iff_ne_none.mpr fetch))

theorem State.QueueSound.idle_of_fetch {s : State} (sound : s.QueueSound) (fetch : s.port.fetch ≠ none) :
    s.cmd.state = .idle := sound.alone (Option.isSome_iff_ne_none.mpr fetch)

/-! ### The starts that an event contains -/

theorem writeIfReady_writing {s : State} (resting : ¬ s.port.state.serving → s.reports.records = []) :
    (writeIfReady s).Writing := by
  intro records unwritten
  replace records : s.reports.records ≠ [] := records
  replace unwritten : s.frontWrite = none := unwritten
  by_contra free
  obtain ⟨front, rest, e⟩ := List.exists_cons_of_ne_nil records
  have serving : s.port.state.serving := by_contra fun idle => records (resting idle)
  unfold State.frontWrite at unwritten
  rw [e] at unwritten
  dsimp only at unwritten
  split at unwritten
  · cases unwritten
  · next blocked => exact blocked ⟨serving, unwritten, free⟩

/-- An event starts the write of its front record, where it accepts one into an empty queue (R184). -/
theorem writeOnAcceptance_writing {s t : State} (port : t.port = s.port) (write : t.reports.write = s.reports.write)
    (before : s.Writing) (resting : ¬ t.port.state.serving → t.reports.records = []) : (writeOnAcceptance s.queued t).Writing := by
  by_cases empty : s.queued = 0
  · rw [show writeOnAcceptance s.queued t = writeIfReady t by rw [empty]; rfl]
    exact writeIfReady_writing resting
  · have kept : writeOnAcceptance s.queued t = t := by simp only [writeOnAcceptance, if_neg empty]; rfl
    rw [kept]
    intro _ unwritten
    rw [write] at unwritten
    rw [port]
    exact before (fun records => empty (by rw [State.queued, records]; rfl)) unwritten

/-- A fetch whose conditions hold starts, with its reservation (R160, R181). -/
theorem State.Accounted.fetchIfReady {s : State} (h : s.Accounted) : (fetchIfReady s).QueueSound := by
  rw [fetchIfReady_eq, State.fetchStarted]
  split
  · next ready =>
    obtain ⟨running, -, idle, fetch, room⟩ := ready
    have reserved := h.books.reserved
    rw [occupied_of_idle fetch idle] at reserved
    have flying : some (s.port.crBase + BitVec.ofNat 32 (32 * s.port.crHead)) ≠ none := Option.some_ne_none _
    refine State.Accounted.queueSound (.of_occupied (occupied_of_fetch flying idle)
      ⟨h.books.adjust, h.books.snap, ?_, room, fun stopped => absurd (.inl running) stopped⟩ (fun _ => idle) h.writing)
      fun _ _ _ landed => absurd landed flying
    show s.reports.reservations + 1 = 1 + s.deferred
    omega
  · next blocked =>
    refine h.queueSound fun running ahead idle fetch => ?_
    have room := h.books.room
    have full : ¬ s.load < 32 := fun free => blocked ⟨running, ahead, idle, fetch, free⟩
    omega

/-- What an event other than the port's own leaves behind is sound (R155, R160, R180, R181, R184). -/
theorem State.QueueSound.event {s t : State} (sound : s.QueueSound) (event : s.Event t 0) :
    (writeOnAcceptance s.queued t).QueueSound := by
  have occupied : (writeOnAcceptance s.queued t).occupied = s.occupied := by
    show t.occupied = _
    rw [State.occupied, State.occupied, event.port, event.unit]
  have books := event.books _ sound.accounted.books
  refine State.Accounted.queueSound (.of_occupied occupied
    ⟨books.adjust, books.snap, books.reserved, books.room, books.resting⟩ ?_ ?_) fun running ahead idle fetch => ?_
  · show t.port.fetch.isSome = true → t.cmd.state = .idle
    rw [event.port, event.unit]
    exact sound.alone
  · exact writeOnAcceptance_writing event.port event.write sound.accounted.writing fun stopped => (books.resting stopped).1
  · have full : s.load = 32 := by
      rw [writeOnAcceptance_port, event.port] at running ahead fetch
      rw [writeOnAcceptance_cmd, event.unit] at idle
      exact sound.fetching running ahead idle fetch
    have room : t.load ≤ 32 := books.room
    have grown := event.load
    show t.load = 32
    omega

/-! ### The answers of commands -/

/-- The completions of its own command that an answer brings at once (R167, R173). -/
def Reply.due : Reply → Nat
  | .now .. => 1
  | .later => 0

/-- An owner's answer to the command in hand: the reservation of the command is there for its completion, or has passed to the
deferred command (R167, R173). -/
structure State.Answers (s : State) (a : Answer) : Prop extends s.EventFrame a.state where
  books : ∀ held, s.Books (held + 1) → a.state.Books (held + (a.ended.length + a.reply.due))

theorem State.Event.answers {s t : State} {ended : List Completion} (event : s.Event t ended.length) (status : Status)
    (fieldNo : Option Nat) (results : Results) :
    s.Answers { state := t, reply := .now status fieldNo results, ended := ended } where
  toEventFrame := event.toEventFrame
  books held books := by
    have after := event.books _ books
    rwa [Nat.add_assoc, Nat.add_comm 1] at after

theorem okWith_answers {s t : State} (event : s.Event t 0) (results : Results) : s.Answers (okWith t results) :=
  State.Event.answers (ended := []) event _ _ _

theorem refuseWith_answers (s : State) (status : Status) (results : Results) : s.Answers (refuseWith s status results) :=
  State.Event.answers (ended := []) (.refl s) _ _ _

theorem badField_answers (s : State) (n : Nat) (results : Results) : s.Answers (badField s n results) :=
  State.Event.answers (ended := []) (.refl s) _ _ _

/-- The completion with which a command in hand is answered at once, if it is (R167). -/
def InHand.own (c : InHand) : Reply → List Completion
  | .now status fieldNo results => [c.completion status fieldNo results]
  | .later => []

theorem InHand.own_length (c : InHand) (r : Reply) : (c.own r).length = r.due := by cases r <;> rfl

/-- The part once the completions of a carry-out have been accepted (R167). -/
def State.completed (s : State) (c : InHand) (a : Answer) : State := acceptAll s.queued a.state (a.ended ++ c.own a.reply)

theorem finish_eq (s : State) (c : InHand) (a : Answer) :
    finish s.queued c a = fetchIfReady (writeOnAcceptance s.queued (s.completed c a).freeUnit) := by
  rw [State.completed]
  cases e : a.reply <;> simp only [finish, e, InHand.own]

theorem State.Answers.completed_frame {s : State} {a : Answer} (answers : s.Answers a) (c : InHand) :
    s.EventFrame (s.completed c a) := answers.toEventFrame.accepted answers.queued

theorem State.Answers.completed_books {s : State} {a : Answer} (answers : s.Answers a) (c : InHand) {held : Nat}
    (books : s.Books (held + 1)) : (s.completed c a).Books held := by
  refine State.Books.accepted ?_ answers.queued
  rw [List.length_append, c.own_length]
  exact answers.books held books

/-- The end of a carry-out or of a descriptor read (R160, R167, R172). -/
theorem State.QueueSound.finish {s : State} {a : Answer} (sound : s.QueueSound) (busy : s.cmd.state ≠ .idle)
    (answers : s.Answers a) (c : InHand) : (finish s.queued c a).QueueSound := by
  have fetch := sound.fetch_of_busy busy
  have before := sound.accounted
  have frame := answers.completed_frame c
  have books : (s.completed c a).Books 0 := by
    have held := before.books
    rw [occupied_of_unit fetch busy] at held
    exact answers.completed_books c held
  rw [finish_eq]
  have landed : (s.completed c a).port.fetch = none := frame.port ▸ fetch
  exact State.Accounted.fetchIfReady (.of_occupied (occupied_of_idle landed rfl)
    ⟨books.adjust, books.snap, books.reserved, books.room, books.resting⟩ (fun _ => rfl)
    (writeOnAcceptance_writing frame.port frame.write before.writing fun stopped => (books.resting stopped).1))

/-! ### The port's own events -/

theorem State.QueueSound.checkDrain {s : State} (sound : s.QueueSound) : (checkDrain s).QueueSound := by
  unfold Machine.checkDrain
  split
  · next drained =>
    obtain ⟨-, records, reservations, fetch⟩ := drained
    exact ⟨sound.room, sound.owed, sound.adjust, sound.snap, sound.alone, fun _ => ⟨records, reservations⟩,
      fun running => (by cases running), sound.writing⟩
  · exact sound

/-- A command taken at the end of its fetch has the reservation of the fetch (R161, R181). -/
theorem State.QueueSound.takeCommand {s : State} (sound : s.QueueSound) (fetch : s.port.fetch ≠ none) (r : Record) :
    (takeCommand s r).QueueSound := by
  have before := sound.accounted
  have books := before.books
  rw [occupied_of_fetch fetch (sound.idle_of_fetch fetch)] at books
  exact State.Accounted.queueSound ⟨⟨books.adjust, books.snap, books.reserved, books.room, books.resting⟩,
    fun flying => (by cases flying), before.writing⟩ fun _ _ idle => by cases idle

/-- The reservation of a fetch that is discarded is given back (R161, R181). -/
theorem State.QueueSound.discardFetch {s : State} (sound : s.QueueSound) (fetch : s.port.fetch ≠ none)
    (stopped : s.port.state ≠ .running) : (discardFetch s).QueueSound := by
  have before := sound.accounted
  have books := before.books
  have idle := sound.idle_of_fetch fetch
  have reserved := books.reserved
  have room := books.room
  rw [occupied_of_fetch fetch idle] at reserved
  refine State.QueueSound.checkDrain (State.Accounted.queueSound (.of_occupied (n := 0) ?_
    ⟨books.adjust, books.snap, ?_, ?_, fun rests => ?_⟩ (fun _ => idle) before.writing) fun running => absurd running stopped)
  · exact occupied_of_idle (s := (s.setPort { s.port with fetch := none }).setReports _) rfl idle
  · show s.reports.reservations - 1 = 0 + s.deferred
    omega
  · rw [State.load] at room ⊢
    show s.reports.records.length + (s.reports.reservations - 1) ≤ 32
    omega
  · obtain ⟨records, none⟩ := books.resting rests
    exact ⟨records, by show s.reports.reservations - 1 = 0; omega⟩

/-- A record written leaves the queue, with the starts that its room allows (R184, R185). -/
theorem State.QueueSound.recordWritten {s : State} (sound : s.QueueSound) : (recordWritten s).QueueSound := by
  have before := sound.accounted
  have books := before.books
  have room := books.room
  have emptied : ¬ s.port.state.serving → s.reports.records.tail = [] := fun rests => by rw [(books.resting rests).1]; rfl
  refine State.QueueSound.checkDrain (State.Accounted.fetchIfReady
    ⟨⟨books.adjust, books.snap, books.reserved, ?_, fun rests => ⟨emptied rests, (books.resting rests).2⟩⟩, before.alone,
      writeIfReady_writing emptied⟩)
  have shorter := s.reports.records.length_tail
  show s.reports.records.tail.length + s.reports.reservations ≤ 32
  rw [State.load] at room
  omega

/-- A halted port holds and owes nothing (R156, R157, R177, R186). -/
theorem halt_queueSound {s : State} (code : FaultCode) (address : Word) (unhalted : s.port.state ≠ .halted) :
    (halt s code address).QueueSound := by
  obtain ⟨port, cmd, reports, -, -, -, wall, -⟩ := halt_haltedAs s code address unhalted
  constructor <;> simp [port, cmd, reports, wall, State.owed]

end Sys2Proof.Machine
end

section
/-! SUPPORT. What a command can do to the port, the command unit and the report queue, said once: it is an event of another block,
ends a command in hand, makes one of the port's own steps, halts the port, or resets it (R149 to R166, R184, R185). -/

namespace Sys2Proof.Machine

/-! ### The steps -/

/-- What a command other than a reset can make of the part, as the port sees it. -/
inductive State.PortStep (s : State) : State → Prop where
  | event {t : State} (event : s.Event t 0) : PortStep s (writeOnAcceptance s.queued t)
  | carried {a : Answer} (c : InHand) (busy : s.cmd.state ≠ .idle) (answers : s.Answers a) : PortStep s (finish s.queued c a)
  | reading {c : InHand} (busy : s.cmd.state ≠ .idle) : PortStep s (s.setCmd { s.cmd with state := .reading c })
  | fetchStarted : PortStep s (fetchIfReady s)
  | commandTaken (r : Record) (flying : s.port.fetch ≠ none) : PortStep s (takeCommand s r)
  | fetchDiscarded (flying : s.port.fetch ≠ none) (stopped : s.port.state ≠ .running) : PortStep s (discardFetch s)
  | writeStarted : PortStep s (writeIfReady s)
  | written : PortStep s (recordWritten s)
  | stored {p : Port} (disabled : s.port.state = .disabled) (state : p.state = .disabled) (fetch : p.fetch = s.port.fetch) :
      PortStep s (s.setPort p)
  | enabled (disabled : s.port.state = .disabled) (valid : s.port.ringError = .none) :
      PortStep s (s.setPort { s.port.cleared with state := .running })
  | drained (running : s.port.state = .running) : PortStep s (checkDrain (writeOnAcceptance s.queued s.drainEntered))
  | tailStored {v : Word} (within : v.toNat < s.port.crSize.toNat) :
      PortStep s (fetchIfReady (s.setPort { s.port with crTail := v.toNat }))
  | headStored {v : Word} (within : v.toNat < s.port.rrSize.toNat)
      (released : ringDistance s.port.rrHead v.toNat s.port.rrSize.toNat ≤
        ringDistance s.port.rrHead s.port.rrTail s.port.rrSize.toNat) :
      PortStep s (writeIfReady (s.setPort { s.port with rrHead := v.toNat }))
  | halted {u : State} (code : FaultCode) (address : Word) (before : s.port.state ≠ .halted) (unhalted : u.port.state ≠ .halted) :
      PortStep s (halt u code address)

/-- The part after either reset, as the port sees it (R163, R164, R178, R186). -/
structure State.PortReset (t : State) : Prop where
  port : t.port = .reset
  cmd : t.cmd = .reset
  reports : t.reports = .reset
  slew : t.wall.slew = none
  snap : t.wall.snap = none

/-- A command that resets the port: either reset, and a soft reset spelt as a write of CONTROL (R149, R163, R164). -/
def resetsPort : Instr → Prop
  | .powerOnReset _ | .softReset _ => True
  | .registerWrite offset v => offset = 0x08 ∧ v.getLsbD 1 = true
  | _ => False

/-- An event that leaves the records as they were. -/
theorem State.Event.quietStep {s t : State} (event : s.Event t 0) (records : t.reports.records = s.reports.records) :
    s.PortStep t := by
  have step := State.PortStep.event event
  rwa [writeOnAcceptance_quiet s t records] at step

theorem State.PortStep.unchanged (s : State) : s.PortStep s := (State.Event.refl s).quietStep rfl

theorem State.PortStep.of_next {s t u : State} (step : s.PortStep u) (e : (.next u : Next) = .next t) : s.PortStep t := by
  cases e
  exact step

/-- What leaves the port, the command unit and the queue alone, and neither begins nor ends a slew or a pending SNAP. -/
theorem State.portStep_of_eqs {s t : State} (port : t.port = s.port) (cmd : t.cmd = s.cmd) (reports : t.reports = s.reports)
    (slew : t.wall.slew.isSome = s.wall.slew.isSome) (snap : t.wall.snap.isSome = s.wall.snap.isSome) : s.PortStep t :=
  (State.event_of_eqs port cmd reports slew snap).quietStep (by rw [reports])

theorem setIrq_portStep (s : State) (q : Irq) : s.PortStep (s.setIrq q) := State.portStep_of_eqs rfl rfl rfl rfl rfl

/-- A halt, or, of a HALTED port, no effect (R157). -/
theorem halt_portStep (s : State) (code : FaultCode) (address : Word) : s.PortStep (halt s code address) := by
  by_cases already : s.port.state = .halted
  · rw [halt_of_halted s code address already]
    exact .unchanged s
  · exact .halted code address already already

/-! ### The answers of the owners -/

theorem armOwner_answers (c : InHand) (s : State) : s.Answers (armOwner c s) := by
  unfold armOwner
  dsimp only
  split
  · exact refuseWith_answers s _ _
  split
  · exact refuseWith_answers s _ _
  split
  · exact refuseWith_answers s _ _
  · exact okWith_answers ((armSlot_schedulesFrom s _ _ _).event (armSlot_reports s _ _ _)) _

theorem withdrawFrom_event (s : State) (h : Handle) (output : Option Output) (option : Withdraw) :
    s.Event (withdrawFrom s h output option).1 0 := by
  unfold withdrawFrom
  split
  · exact (offerDones_event _ _).after (setChan_event s _ _)
  · exact (offerDones_event _ _).after (setChan_event s _ _)
  · exact .refl s

theorem disarmOwner_answers (c : InHand) (s : State) : s.Answers (disarmOwner c s) := by
  unfold disarmOwner
  dsimp only
  split
  · exact refuseWith_answers s _ _
  · next x _ =>
    split
    · exact badField_answers s _ _
    · exact okWith_answers ((withdrawFrom_event _ _ _ _).after ((idle_schedulesFrom s _ x).event rfl)) _

theorem releaseOwner_answers (c : InHand) (s : State) : s.Answers (releaseOwner c s) := by
  unfold releaseOwner
  dsimp only
  split
  · exact refuseWith_answers s _ _
  split
  · exact refuseWith_answers s _ _
  · refine okWith_answers ?_ _
    exact State.event_of_eqs rfl rfl rfl rfl rfl

theorem queryOwner_answers (c : InHand) (s : State) : s.Answers (queryOwner c s) := by
  unfold queryOwner
  dsimp only
  split
  · exact refuseWith_answers s _ _
  · exact okWith_answers (.refl s) _

theorem suspendOwner_answers (c : InHand) (s : State) : s.Answers (suspendOwner c s) := by
  unfold suspendOwner
  split
  · refine okWith_answers ?_ _
    exact State.event_of_eqs rfl rfl rfl rfl rfl
  · exact refuseWith_answers s _ _

theorem resumeOwner_answers (c : InHand) (s : State) : s.Answers (resumeOwner c s) := by
  unfold resumeOwner
  split
  · exact okWith_answers (resumed_event s) _
  · exact refuseWith_answers s _ _

theorem changeWith_answers (s : State) (new : Nat) (change : Option Int) : s.Answers (changeWith s new change) :=
  (wallChange_event s new).answers _ _ _

theorem setTimeOwner_answers (c : InHand) (s : State) : s.Answers (setTimeOwner c s) := by
  unfold setTimeOwner
  split
  · exact badField_answers s _ _
  · exact changeWith_answers s _ _

theorem stepTimeOwner_answers (c : InHand) (s : State) : s.Answers (stepTimeOwner c s) := by
  unfold stepTimeOwner
  split
  · exact refuseWith_answers s _ _
  split
  · exact badField_answers s _ _
  · exact changeWith_answers s _ _

/-- The reservation of a deferred ADJUST_TIME passes to its slot (R77, R173). -/
theorem beginSlew_answers {s : State} (c : InHand) (delta : Int) (free : s.wall.slew = none) :
    s.Answers { state := beginSlew s c delta, reply := .later, ended := [] } where
  port := rfl
  unit := rfl
  write := rfl
  queued := le_rfl
  load := le_rfl
  books held books := by
    have empty : s.cmd.adjust.isSome = false := by rw [books.adjust, free]; rfl
    have reserved := books.reserved
    rw [State.deferred, empty] at reserved
    refine ⟨rfl, books.snap, ?_, books.room, books.resting⟩
    show s.reports.reservations = held + 0 + (1 + s.cmd.snap.isSome.toNat)
    rw [reserved, Bool.toNat_false]
    omega

/-- The reservation of a deferred SNAP_TIME passes to its slot (R83, R173). -/
theorem beginSnap_answers {s : State} (c : InHand) (unit : SnapUnit) (limit : Nat) (free : s.wall.snap = none) :
    s.Answers { state := beginSnap s c unit limit, reply := .later, ended := [] } where
  port := rfl
  unit := rfl
  write := rfl
  queued := le_rfl
  load := le_rfl
  books held books := by
    have empty : s.cmd.snap.isSome = false := by rw [books.snap, free]; rfl
    have reserved := books.reserved
    rw [State.deferred, empty] at reserved
    refine ⟨books.adjust, rfl, ?_, books.room, books.resting⟩
    show s.reports.reservations = held + 0 + (s.cmd.adjust.isSome.toNat + 1)
    rw [reserved, Bool.toNat_false]
    omega

theorem adjustTimeOwner_answers (c : InHand) (s : State) : s.Answers (adjustTimeOwner c s) := by
  unfold adjustTimeOwner
  dsimp only
  split
  · exact badField_answers s _ _
  split
  · exact refuseWith_answers s _ _
  split
  · exact refuseWith_answers s _ _
  · next free =>
    split
    · exact badField_answers s _ _
    split
    · exact refuseWith_answers s _ _
    · exact beginSlew_answers c _ (by simpa using free)

theorem snapNextRef_answers (c : InHand) (s : State) (unit : SnapUnit) (limit : Nat) :
    s.Answers (snapNextRef s c unit limit) := by
  unfold snapNextRef
  split
  · exact refuseWith_answers s _ _
  split
  · exact refuseWith_answers s _ _
  · next free =>
    split
    · exact refuseWith_answers s _ _
    split
    · exact refuseWith_answers s _ _
    · exact beginSnap_answers c unit limit (by simpa using free)

theorem snapTimeOwner_answers (c : InHand) (s : State) : s.Answers (snapTimeOwner c s) := by
  unfold snapTimeOwner
  split
  · exact badField_answers s _ _
  · unfold snapNow
    dsimp only
    split
    · exact refuseWith_answers s _ _
    split
    · exact badField_answers s _ _
    · exact changeWith_answers s _ _
  · exact snapNextRef_answers c s _ _

theorem configReferenceOwner_answers (c : InHand) (s : State) : s.Answers (configReferenceOwner c s) := by
  unfold configReferenceOwner
  split
  · exact badField_answers s _ _
  · next f _ =>
    have configured : s.dropSnap.Event (s.dropSnap.setTime (s.time.configure f)) 0 := State.event_of_eqs rfl rfl rfl rfl rfl
    exact ((dropSnap_event s .cancelled none .noChange).before
      ((offerReference_event _ _).after configured)).answers _ _ _

theorem configChannelOwner_answers (c : InHand) (s : State) : s.Answers (configChannelOwner c s) := by
  unfold configChannelOwner
  split
  · exact badField_answers s _ _
  · exact State.Event.answers (ended := []) ((offerDones_event _ _).after (setChan_event s _ _)) _ _ _

theorem flushChannelOwner_answers (c : InHand) (s : State) : s.Answers (flushChannelOwner c s) := by
  unfold flushChannelOwner
  split
  · exact badField_answers s _ _
  · exact okWith_answers ((offerDones_event _ _).after (setChan_event s _ _)) _

theorem channelStatusOwner_answers (c : InHand) (s : State) : s.Answers (channelStatusOwner c s) := by
  unfold channelStatusOwner
  split
  · exact badField_answers s _ _
  · exact okWith_answers (.refl s) _

theorem configCaptureOwner_answers (c : InHand) (s : State) : s.Answers (configCaptureOwner c s) := by
  unfold configCaptureOwner
  split
  · exact badField_answers s _ _
  · refine okWith_answers ?_ _
    exact State.event_of_eqs rfl rfl rfl rfl rfl

theorem captureStatusOwner_answers (c : InHand) (s : State) : s.Answers (captureStatusOwner c s) := by
  unfold captureStatusOwner
  split
  · exact badField_answers s _ _
  · exact okWith_answers (.refl s) _

theorem defineFrom_answers (s : State) (d : Descriptor) : s.Answers (defineFrom s d) := by
  unfold defineFrom
  split
  · exact badField_answers s _ _
  split
  · exact refuseWith_answers s _ _
  · refine okWith_answers ?_ _
    exact State.event_of_eqs rfl rfl rfl rfl rfl

/-! ### The commands of the ring -/

theorem busy_of_holding {s : State} {c : InHand} (hold : s.cmd.state = .holding c) : s.cmd.state ≠ .idle := by
  rw [hold]; rintro ⟨⟩

theorem busy_of_reading {s : State} {c : InHand} (reads : s.cmd.state = .reading c) : s.cmd.state ≠ .idle := by
  rw [reads]; rintro ⟨⟩

theorem carryOut_portStep {opcode : Byte} {s : State} {owner : InHand → State → Answer}
    (own : ∀ c, s.Answers (owner c s)) : s.PortStep (carryOut opcode s owner) := by
  unfold carryOut
  split
  · next c hold =>
    split
    · exact .carried c (busy_of_holding hold) (own c)
    · exact .unchanged s
  · exact .unchanged s

theorem execBadOpcode_portStep {s t : State} (e : execBadOpcode s = .next t) : s.PortStep t := by
  cases e
  split
  · next c hold =>
    split
    · exact .carried c (busy_of_holding hold) (refuseWith_answers s _ _)
    · exact .unchanged s
  · exact .unchanged s

theorem execDefineAction_portStep {s t : State} (e : execDefineAction s = .next t) : s.PortStep t := by
  cases e
  split
  · next c hold =>
    split
    · split
      · exact .carried c (busy_of_holding hold) (refuseWith_answers s _ _)
      · exact .reading (busy_of_holding hold)
    · exact .unchanged s
  · exact .unchanged s

theorem execDescriptorReadEnd_portStep {ending : BusEnd 512} {s t : State} (e : execDescriptorReadEnd ending s = .next t) :
    s.PortStep t := by
  cases e
  split
  · next c reads =>
    cases ending with
    | error => exact .carried c (busy_of_reading reads) (refuseWith_answers s _ _)
    | data d => exact .carried c (busy_of_reading reads) (defineFrom_answers s d)
  · exact .unchanged s

/-! ### The port -/

theorem execFetchEnd_portStep {ending : BusEnd 256} {s t : State} (e : execFetchEnd ending s = .next t) : s.PortStep t := by
  cases e
  split
  · exact .unchanged s
  · next flying =>
    split
    · cases ending with
      | data r => exact .commandTaken r flying
      | error => exact halt_portStep s _ _
    · next stopped => exact .fetchDiscarded flying stopped

theorem execReportWriteEnd_portStep {busError : Bool} {s t : State} (e : execReportWriteEnd busError s = .next t) :
    s.PortStep t := by
  cases e
  split
  · exact .unchanged s
  split
  · exact halt_portStep s _ _
  · exact .written

theorem writeEnable1_portStep (s : State) : s.PortStep (writeEnable1 s) := by
  unfold writeEnable1
  split
  · next disabled =>
    have unhalted : s.port.state ≠ .halted := by rw [disabled]; rintro ⟨⟩
    split
    · next valid =>
      dsimp only
      split
      · exact .halted _ _ unhalted unhalted
      · exact .enabled disabled valid
    · exact .stored disabled disabled rfl
  · exact .unchanged s

theorem writeEnable0_portStep (s : State) : s.PortStep (writeEnable0 s) := by
  unfold writeEnable0
  split
  · next running => exact .drained running
  · exact .unchanged s

theorem writeCrTail_portStep (s : State) (v : Word) : s.PortStep (writeCrTail s v) := by
  unfold writeCrTail
  split
  · split
    · next within => exact .tailStored within
    · exact halt_portStep s _ _
  · exact .unchanged s

theorem writeRrHead_portStep (s : State) (v : Word) : s.PortStep (writeRrHead s v) := by
  unfold writeRrHead
  dsimp only
  split
  · split
    · next accepted => exact .headStored accepted.1 accepted.2
    · exact halt_portStep s _ _
  · exact .unchanged s

theorem storeRing_portStep {s : State} {p : Port} (state : p.state = s.port.state) (fetch : p.fetch = s.port.fetch) :
    s.PortStep (storeRing s p) := by
  unfold storeRing
  split
  · next disabled => exact .stored disabled (state.trans disabled) fetch
  · exact .unchanged s

theorem softResetAll_portReset (s : State) : (softResetAll s).PortReset := ⟨rfl, rfl, rfl, rfl, rfl⟩

/-- The register found at an offset has that offset (table 11.2). -/
theorem ofOffset_offset {offset : Nat} {r : Reg} (found : Reg.ofOffset offset = some r) : r.offset = offset := by
  have own := List.find?_some found
  simpa using own

theorem execRegisterWrite_portStep {offset : Nat} {v : Word} {s t : State} (e : execRegisterWrite offset v s = .next t) :
    (resetsPort (.registerWrite offset v) ∧ t.PortReset) ∨ s.PortStep t := by
  unfold execRegisterWrite at e
  split at e
  · next r found =>
    cases e
    cases r with
    | devId | devRev | status | faultCode | faultAddr | crHead | rrTail => exact .inr (.unchanged s)
    | crBase | crSize | rrBase | rrSize => exact .inr (storeRing_portStep rfl rfl)
    | control =>
      unfold writeRegister
      dsimp only
      split
      · next reset => exact .inl ⟨⟨(ofOffset_offset found).symm, reset⟩, softResetAll_portReset s⟩
      split
      · exact .inr (writeEnable1_portStep s)
      · exact .inr (writeEnable0_portStep s)
    | crTail => exact .inr (writeCrTail_portStep s v)
    | rrHead => exact .inr (writeRrHead_portStep s v)
    | intStatus | intEnable | intModeration => exact .inr (State.portStep_of_eqs rfl rfl rfl rfl rfl)
  · cases e

/-! ### The inputs, the clocks and the scheduler -/

theorem execRefEdge_portStep {s t : State} (e : execRefEdge s = .next t) : s.PortStep t := by
  cases e
  have judged : s.Event (offerReference (s.setTime s.time.edge.1) s.time.disc.state) 0 :=
    (offerReference_event _ _).after (State.event_of_eqs rfl rfl rfl rfl rfl)
  have snapped : ∀ offered : Bool, s.Event (if offered then
      applySnap (offerReference (s.setTime s.time.edge.1) s.time.disc.state)
      else offerReference (s.setTime s.time.edge.1) s.time.disc.state) 0 := by
    rintro (_ | _)
    · exact judged
    · exact judged.before (applySnap_event _)
  exact .event (snapped s.time.edge.2)

theorem execWindowClose_portStep {s t : State} (e : execWindowClose s = .next t) : s.PortStep t := by
  cases e
  split
  · exact .event ((offerReference_event _ _).after (State.event_of_eqs rfl rfl rfl rfl rfl))
  · exact .unchanged s

theorem execTransition_portStep {k : Fin 4} {s t : State} (e : execTransition k s = .next t) : s.PortStep t := by
  cases e
  dsimp only
  split_ifs
  · exact .unchanged s
  · exact State.portStep_of_eqs rfl rfl rfl rfl rfl
  · exact State.portStep_of_eqs rfl rfl rfl rfl rfl
  · exact State.portStep_of_eqs rfl rfl rfl rfl rfl
  · exact .event ((acceptCandidate_event _ _ _).after (State.event_of_eqs rfl rfl rfl rfl rfl))
  · exact State.portStep_of_eqs rfl rfl rfl rfl rfl

theorem execAcceptance_portStep {k : Fin 4} {s t : State} (e : execAcceptance k s = .next t) : s.PortStep t := by
  cases e
  split
  · split
    · exact .event (acceptCandidate_event s k _)
    · exact .unchanged s
  · exact .unchanged s

theorem execExpiry_portStep {s t : State} (e : execExpiry s = .next t) : s.PortStep t := by
  cases e
  split
  · split
    · next i _ =>
      split
      · exact .event (takeOne_event s (.entry i))
      · exact .unchanged s
    · next m _ =>
      split
      · exact .event (takeOne_event s (.found m))
      · exact .unchanged s
    · exact .unchanged s
  · exact .unchanged s

theorem execRunningSecondBoundary_portStep {s t : State} (e : execRunningSecondBoundary s = .next t) : s.PortStep t := by
  cases e
  split
  · refine State.Event.quietStep ((offerSecond_event _ _).after (State.event_of_eqs rfl rfl rfl rfl rfl)) ?_
    unfold State.offerSecond
    split <;> rfl
  · exact .unchanged s

theorem execSlewStep_portStep {s t : State} (e : execSlewStep s = .next t) : s.PortStep t := by
  cases e
  split
  · split
    · next w slew =>
      have moved : s.Event (s.stepped w) 0 := State.event_of_eqs rfl rfl rfl (by rw [slew]; rfl) rfl
      dsimp only
      split
      · exact .event (((stopSlew_event (s.stepped w) .ok).after moved).accepted le_rfl)
      · exact moved.quietStep rfl
    · exact .unchanged s
  · exact .unchanged s

theorem execWaitEnd_portStep {s t : State} (e : execWaitEnd s = .next t) : s.PortStep t := by
  cases e
  split
  · exact .event ((dropSnap_event s .timeout none .noChange).accepted le_rfl)
  · exact .unchanged s

theorem execRangeEnd_portStep {s t : State} (e : execRangeEnd s = .next t) : s.PortStep t := by
  cases e
  split
  · exact .event (rangeEnd_event s)
  · exact .unchanged s

theorem completeRunning_event (s : State) (ch : Fin 8) (r : Running) : s.Event (completeRunning s ch r) 0 :=
  (setChan_event _ _ _).after ((offerDones_event _ _).after (followOf_event s r.inst s.mono))

theorem execPhaseEnd_portStep {ch : Fin 8} {s t : State} (e : execPhaseEnd ch s = .next t) : s.PortStep t := by
  cases e
  split
  · split
    · exact State.portStep_of_eqs rfl rfl rfl rfl rfl
    · exact .event (completeRunning_event s ch _)
    · exact .unchanged s
  · exact .unchanged s

theorem execModerationExpiry_portStep {s t : State} (e : execModerationExpiry s = .next t) : s.PortStep t := by
  cases e
  split <;> exact State.portStep_of_eqs rfl rfl rfl rfl rfl

theorem execMonoExhaustion_portStep {s t : State} (e : execMonoExhaustion s = .next t) : s.PortStep t := by
  cases e
  split
  · by_cases already : s.port.state = .halted
    · rw [halt_of_halted (s.setTime { s.time with exhausted := true }) _ _ already]
      exact State.portStep_of_eqs rfl rfl rfl rfl rfl
    · exact .halted _ _ already already
  · exact .unchanged s

theorem execFineUnit_portStep {s t : State} (e : execFineUnit s = .next t) : s.PortStep t := by
  cases e
  split <;> exact State.portStep_of_eqs rfl rfl rfl rfl rfl

/-- What any command does to the port, the command unit and the report queue. -/
theorem exec_portStep {c : Instr} {s t : State} (e : exec c s = .next t) : (resetsPort c ∧ t.PortReset) ∨ s.PortStep t := by
  cases c with
  | softReset => cases e; exact .inl ⟨trivial, softResetAll_portReset s⟩
  | powerOnReset lines => cases e; exact .inl ⟨trivial, rfl, rfl, rfl, rfl, rfl⟩
  | registerWrite offset value => exact execRegisterWrite_portStep e
  | nop | readTime => exact .inr ((carryOut_portStep fun _ => okWith_answers (.refl s) _).of_next e)
  | badOpcode => exact .inr (execBadOpcode_portStep e)
  | defineAction => exact .inr (execDefineAction_portStep e)
  | descriptorReadEnd ending => exact .inr (execDescriptorReadEnd_portStep e)
  | arm => exact .inr ((carryOut_portStep fun c => armOwner_answers c s).of_next e)
  | disarm => exact .inr ((carryOut_portStep fun c => disarmOwner_answers c s).of_next e)
  | release => exact .inr ((carryOut_portStep fun c => releaseOwner_answers c s).of_next e)
  | queryAction => exact .inr ((carryOut_portStep fun c => queryOwner_answers c s).of_next e)
  | suspend => exact .inr ((carryOut_portStep fun c => suspendOwner_answers c s).of_next e)
  | resume => exact .inr ((carryOut_portStep fun c => resumeOwner_answers c s).of_next e)
  | setTime => exact .inr ((carryOut_portStep fun c => setTimeOwner_answers c s).of_next e)
  | stepTime => exact .inr ((carryOut_portStep fun c => stepTimeOwner_answers c s).of_next e)
  | adjustTime => exact .inr ((carryOut_portStep fun c => adjustTimeOwner_answers c s).of_next e)
  | snapTime => exact .inr ((carryOut_portStep fun c => snapTimeOwner_answers c s).of_next e)
  | configReference => exact .inr ((carryOut_portStep fun c => configReferenceOwner_answers c s).of_next e)
  | configChannel => exact .inr ((carryOut_portStep fun c => configChannelOwner_answers c s).of_next e)
  | flushChannel => exact .inr ((carryOut_portStep fun c => flushChannelOwner_answers c s).of_next e)
  | channelStatus => exact .inr ((carryOut_portStep fun c => channelStatusOwner_answers c s).of_next e)
  | configCapture => exact .inr ((carryOut_portStep fun c => configCaptureOwner_answers c s).of_next e)
  | captureStatus => exact .inr ((carryOut_portStep fun c => captureStatusOwner_answers c s).of_next e)
  | fetchStart => exact .inr (State.PortStep.fetchStarted.of_next e)
  | reportWriteStart => exact .inr (State.PortStep.writeStarted.of_next e)
  | intStatusWrite | intEnableWrite | intModerationWrite =>
    exact .inr ((setIrq_portStep s _).of_next e)
  | fetchEnd ending => exact .inr (execFetchEnd_portStep e)
  | reportWriteEnd busError => exact .inr (execReportWriteEnd_portStep e)
  | enableWrite1 => exact .inr ((writeEnable1_portStep s).of_next e)
  | enableWrite0 => exact .inr ((writeEnable0_portStep s).of_next e)
  | crTailWrite value => exact .inr ((writeCrTail_portStep s value).of_next e)
  | rrHeadWrite value => exact .inr ((writeRrHead_portStep s value).of_next e)
  | refEdge => exact .inr (execRefEdge_portStep e)
  | windowClose => exact .inr (execWindowClose_portStep e)
  | transition input => exact .inr (execTransition_portStep e)
  | acceptance input => exact .inr (execAcceptance_portStep e)
  | expiry => exact .inr (execExpiry_portStep e)
  | runningSecondBoundary => exact .inr (execRunningSecondBoundary_portStep e)
  | slewStep => exact .inr (execSlewStep_portStep e)
  | waitEnd => exact .inr (execWaitEnd_portStep e)
  | rangeEnd => exact .inr (execRangeEnd_portStep e)
  | phaseEnd channel => exact .inr (execPhaseEnd_portStep e)
  | moderationExpiry => exact .inr (execModerationExpiry_portStep e)
  | monoExhaustion => exact .inr (execMonoExhaustion_portStep e)
  | fineUnit => exact .inr (execFineUnit_portStep e)

end Sys2Proof.Machine
end

section
/-! SUPPORT. The accounts of the report queue, the rings and the first fault under every command (R152, R156, R157, R180, R184). -/

namespace Sys2Proof.Machine

/-! ### The report queue -/

theorem disabled_not_serving : ¬ PortState.disabled.serving := by decide

theorem halted_not_serving : ¬ PortState.halted.serving := by decide

/-- RR_HEAD stored, with the start of a report write whose conditions then hold (R159, R184). -/
theorem State.QueueSound.headStored {s : State} (sound : s.QueueSound) (head : Nat) :
    (writeIfReady (s.setPort { s.port with rrHead := head })).QueueSound :=
  ⟨sound.room, sound.owed, sound.adjust, sound.snap, sound.alone, sound.resting, sound.fetching,
    writeIfReady_writing fun rests => (sound.resting rests).1⟩

/-- CR_TAIL stored, with the start of a fetch whose conditions then hold (R158, R160). -/
theorem State.QueueSound.tailStored {s : State} (sound : s.QueueSound) (tail : Nat) :
    (fetchIfReady (s.setPort { s.port with crTail := tail })).QueueSound := by
  obtain ⟨⟨adjust, snap, reserved, room, resting⟩, alone, writing⟩ := sound.accounted
  exact State.Accounted.fetchIfReady ⟨⟨adjust, snap, reserved, room, resting⟩, alone, writing⟩

theorem State.QueueSound.reading {s : State} (sound : s.QueueSound) (busy : s.cmd.state ≠ .idle) (c : InHand) :
    (s.setCmd { s.cmd with state := .reading c }).QueueSound := by
  have fetch := sound.fetch_of_busy busy
  have before := sound.accounted
  have books := before.books
  rw [occupied_of_unit fetch busy] at books
  have reads : CmdState.reading c ≠ .idle := by rintro ⟨⟩
  refine State.Accounted.queueSound (.of_occupied (n := 1) ?_
    ⟨books.adjust, books.snap, books.reserved, books.room, books.resting⟩ ?_ before.writing)
    fun _ _ idle => absurd idle reads
  · exact occupied_of_unit (s := s.setCmd { s.cmd with state := .reading c }) fetch reads
  · intro flying
    rw [State.setCmd_port, fetch] at flying
    cases flying

/-- A DISABLED port with registers stored holds and owes nothing still (R148, R150). -/
theorem State.QueueSound.stored {s : State} (sound : s.QueueSound) {p : Port} (disabled : s.port.state = .disabled)
    (state : p.state = .disabled) (fetch : p.fetch = s.port.fetch) : (s.setPort p).QueueSound := by
  have resting := sound.resting (by rw [disabled]; exact disabled_not_serving)
  refine ⟨sound.room, ?_, sound.adjust, sound.snap, ?_, fun _ => resting, fun running => ?_, fun records =>
    absurd resting.1 records⟩
  · simp only [State.owed, State.setPort_port, fetch]
    exact sound.owed
  · rw [State.setPort_port, fetch]
    exact sound.alone
  · rw [State.setPort_port, state] at running
    cases running

/-- A port that enters RUNNING has nothing to fetch and nothing to write (R152). -/
theorem State.QueueSound.enabled {s : State} (sound : s.QueueSound) (disabled : s.port.state = .disabled) :
    (s.setPort { s.port.cleared with state := .running }).QueueSound := by
  have resting := sound.resting (by rw [disabled]; exact disabled_not_serving)
  exact ⟨sound.room, sound.owed, sound.adjust, sound.snap, sound.alone, fun _ => resting, fun _ ahead => absurd rfl ahead,
    fun records => absurd resting.1 records⟩

/-- The entry into DRAINING answers the deferred commands that it ends from their reservations (R90, R154, R155). -/
theorem State.QueueSound.drained {s : State} (sound : s.QueueSound) :
    (Machine.checkDrain (writeOnAcceptance s.queued s.drainEntered)).QueueSound := by
  have stops : (s.setPort { s.port with state := .draining }).QueueSound :=
    ⟨sound.room, sound.owed, sound.adjust, sound.snap, sound.alone, fun rests => absurd (.inr rfl) rests,
      fun runs => (by cases runs), sound.writing⟩
  have ended := (stopSlew_event (s.setPort { s.port with state := .draining }) .cancelled).trans
    (dropSnap_event _ .cancelled none .noChange)
  have length : s.drainAnswers.length = (s.adjustEnds .cancelled).length + (s.snapEnds .cancelled none .noChange).length :=
    List.length_append
  exact (stops.event (State.Event.accepted (cs := s.drainAnswers) (by rw [length]; exact ended) le_rfl)).checkDrain

theorem State.PortReset.queueSound {t : State} (reset : t.PortReset) : t.QueueSound := by
  obtain ⟨port, cmd, reports, slew, snap⟩ := reset
  constructor <;> simp [port, cmd, reports, slew, snap, State.owed, Port.reset, CmdUnit.reset, ReportQueue.reset]

/-- Settles O7: each step of the port keeps the accounts, and so does every event of another block. -/
theorem reportQueueNeverOverfills : Obligations.ReportQueueNeverOverfills := by
  intro c s t sound e
  rcases exec_portStep e with ⟨-, reset⟩ | step
  · exact reset.queueSound
  cases step with
  | event event => exact sound.event event
  | carried c busy answers => exact sound.finish busy answers c
  | reading busy => exact sound.reading busy _
  | fetchStarted => exact sound.accounted.fetchIfReady
  | commandTaken r flying => exact sound.takeCommand flying r
  | fetchDiscarded flying stopped => exact sound.discardFetch flying stopped
  | writeStarted => exact sound.headStored s.port.rrHead
  | written => exact sound.recordWritten
  | stored disabled state fetch => exact sound.stored disabled state fetch
  | enabled disabled => exact sound.enabled disabled
  | drained => exact sound.drained
  | tailStored => exact sound.tailStored _
  | headStored => exact sound.headStored _
  | halted code address _ unhalted => exact halt_queueSound code address unhalted

/-! ### The rings -/

/-- While the port serves, its rings are sound (R152, R158, R159, R184). -/
def State.Rings (s : State) : Prop := s.port.state.serving → s.port.RingsSound s.reports.write.isSome

theorem State.Rings.of_eqs {s t : State} (rings : s.Rings) (port : t.port = s.port) (write : t.reports.write = s.reports.write) :
    t.Rings := by
  rw [State.Rings, port, write]
  exact rings

/-- A write starts only where its entry leaves one more free (R184). -/
theorem frontWrite_room {s : State} (started : s.frontWrite.isSome = true) : s.reports.write.isSome = true ∨
    (s.port.rrTail + 1) % s.port.rrSize.toNat ≠ s.port.rrHead := by
  unfold State.frontWrite at started
  split at started
  · split at started
    · next ready => exact .inr ready.2.2
    · exact .inl started
  · exact .inl started

theorem State.Rings.writeIfReady {s : State} (rings : s.Rings) : (writeIfReady s).Rings := by
  intro serving
  have before := rings serving
  exact { before with room := fun started => (frontWrite_room started).elim before.room id }

theorem State.Rings.writeOnAcceptance {s : State} (rings : s.Rings) (queued : Nat) : (writeOnAcceptance queued s).Rings := by
  by_cases empty : queued = 0
  · rw [empty]
    exact rings.writeIfReady
  · exact rings.of_eqs rfl (if_neg empty)

theorem State.Rings.fetchIfReady {s : State} (rings : s.Rings) : (fetchIfReady s).Rings :=
  fun serving => { rings serving with }

theorem State.Rings.checkDrain {s : State} (rings : s.Rings) : (checkDrain s).Rings := by
  rcases checkDrain_cases s with e | ⟨-, e⟩ <;> rw [e]
  · exact rings
  · exact fun serving => absurd serving disabled_not_serving

theorem Port.RingsSound.nextIndex_lt {p : Port} {w : Bool} (rings : p.RingsSound w) :
    nextIndex p.rrTail p.rrSize < p.rrSize.toNat := Nat.mod_lt _ (Nat.zero_lt_of_lt rings.rrTail)

theorem State.Rings.recordWritten {s : State} (rings : s.Rings) : (recordWritten s).Rings := by
  refine State.Rings.checkDrain (State.Rings.fetchIfReady (State.Rings.writeIfReady fun serving => ?_))
  have before := rings serving
  exact { before with rrTail := before.nextIndex_lt, room := fun started => by cases started }

/-- An index that releases no more than what has been written does not pass RR_TAIL (R159). -/
theorem ne_of_released {size head tail v : Nat} (inHead : head < size) (inTail : tail < size) (inV : v < size)
    (room : (tail + 1) % size ≠ head) (released : ringDistance head v size ≤ ringDistance head tail size) :
    (tail + 1) % size ≠ v := by
  have distance : ∀ n, n < size → ringDistance head n size = if head ≤ n then n - head else n + size - head := by
    intro n inN
    unfold ringDistance
    split
    · rw [show n + size - head = n - head + size by omega, Nat.add_mod_right, Nat.mod_eq_of_lt (by omega)]
    · rw [Nat.mod_eq_of_lt (by omega)]
  have next : (tail + 1) % size = if tail + 1 = size then 0 else tail + 1 := by
    split
    · next wraps => rw [wraps, Nat.mod_self]
    · rw [Nat.mod_eq_of_lt (by omega)]
  rw [distance v inV, distance tail inTail] at released
  rw [next] at room ⊢
  split_ifs at released room ⊢ <;> omega

theorem State.Rings.headStored {s : State} (rings : s.Rings) {v : Nat} (within : v < s.port.rrSize.toNat)
    (released : ringDistance s.port.rrHead v s.port.rrSize.toNat ≤
      ringDistance s.port.rrHead s.port.rrTail s.port.rrSize.toNat) : (s.setPort { s.port with rrHead := v }).Rings := by
  intro serving
  have before := rings serving
  exact { before with
    rrHead := within
    room := fun writing => ne_of_released before.rrHead before.rrTail within (before.room writing) released }

/-- The rings that R152 accepts, with every index at 0 (R152). -/
theorem ringsSound_of_valid {p : Port} (valid : p.ringError = .none) (writing : Bool) :
    ({ p.cleared with state := .running } : Port).RingsSound writing := by
  rw [ringError_eq] at valid
  split_ifs at valid with crBase crSize rrBase rrSize
  obtain ⟨crPower, crEnd⟩ := (sizeValid_iff _ _).mp crSize
  obtain ⟨rrPower, rrEnd⟩ := (sizeValid_iff _ _).mp rrSize
  have large : ∀ n, (∃ k, 4 ≤ k ∧ k ≤ 12 ∧ n = 2 ^ k) → 2 ^ 4 ≤ n := by
    rintro n ⟨k, low, -, rfl⟩
    exact Nat.pow_le_pow_right (by decide) low
  have crLarge : 0 < p.crSize.toNat := Nat.lt_of_lt_of_le (by decide) (large _ crPower)
  have rrLarge : 1 < p.rrSize.toNat := Nat.lt_of_lt_of_le (by decide) (large _ rrPower)
  refine ⟨(baseValid_iff _).mp crBase, (baseValid_iff _).mp rrBase, ⟨crPower, crEnd⟩, ⟨rrPower, rrEnd⟩, crLarge, crLarge,
    Nat.zero_lt_of_lt rrLarge, Nat.zero_lt_of_lt rrLarge, fun _ => ?_⟩
  show (0 + 1) % p.rrSize.toNat ≠ 0
  rw [Nat.zero_add, Nat.mod_eq_of_lt rrLarge]
  decide

theorem State.Rings.portStep {s t : State} (rings : s.Rings) (step : s.PortStep t) : t.Rings := by
  cases step with
  | event event => exact (rings.of_eqs event.port event.write).writeOnAcceptance _
  | @carried a c _ answers =>
    have frame := answers.completed_frame c
    rw [finish_eq]
    exact ((rings.of_eqs (t := (s.completed c a).freeUnit) frame.port frame.write).writeOnAcceptance _).fetchIfReady
  | reading => exact rings.of_eqs rfl rfl
  | fetchStarted => exact rings.fetchIfReady
  | commandTaken =>
    intro serving
    have before := rings serving
    exact { before with crHead := Nat.mod_lt _ (Nat.zero_lt_of_lt before.crHead) }
  | fetchDiscarded => exact State.Rings.checkDrain fun serving => { rings serving with }
  | writeStarted => exact rings.writeIfReady
  | written => exact rings.recordWritten
  | @stored p _ state =>
    intro serving
    rw [State.setPort_port, state] at serving
    exact absurd serving disabled_not_serving
  | enabled _ valid => exact fun _ => ringsSound_of_valid valid _
  | drained running =>
    refine State.Rings.checkDrain (State.Rings.writeOnAcceptance (fun _ => ?_) _)
    have entered := drainEntered_acceptsFrom s
    rw [entered.port, entered.write]
    exact { rings (.inl running) with }
  | tailStored within => exact State.Rings.fetchIfReady fun serving => { rings serving with crTail := within }
  | headStored within released => exact (rings.headStored within released).writeIfReady
  | @halted u code address _ unhalted =>
    intro serving
    obtain ⟨port, -⟩ := halt_haltedAs u code address unhalted
    rw [port] at serving
    exact absurd serving halted_not_serving

/-- Settles O12: each step of the port keeps the rings, and a reset leaves a port that does not serve. -/
theorem ringIndicesStayInRange : Obligations.RingIndicesStayInRange := by
  intro c s t rings e
  rcases exec_portStep e with ⟨-, reset⟩ | step
  · rw [reset.port]
    exact fun serving => absurd serving disabled_not_serving
  · exact State.Rings.portStep rings step

/-! ### The first fault -/

/-- The port is HALTED by this fault (R156). -/
def Port.haltedBy (p : Port) (code : FaultCode) (address : Word) : Prop :=
  p.state = .halted ∧ p.faultCode = code ∧ p.faultAddr = address

theorem checkDrain_haltedBy {s : State} {code : FaultCode} {address : Word} (halted : s.port.haltedBy code address) :
    (checkDrain s).port.haltedBy code address := by
  rcases checkDrain_cases s with e | ⟨draining, -⟩
  · rw [e]
    exact halted
  · exact absurd (halted.1.symm.trans draining) (by rintro ⟨⟩)

theorem State.PortStep.halted_stays {s t : State} (step : s.PortStep t) {code : FaultCode} {address : Word}
    (halted : s.port.haltedBy code address) : t.port.haltedBy code address := by
  have state := halted.1
  cases step with
  | event event => rw [writeOnAcceptance_port, event.port]; exact halted
  | @carried a c _ answers =>
    have port := (answers.completed_frame c).port
    rw [finish_eq]
    show Port.haltedBy { (s.completed c a).port with fetch := _ } code address
    rw [port]
    exact halted
  | reading | fetchStarted | commandTaken | writeStarted | tailStored | headStored => exact halted
  | fetchDiscarded | written => exact checkDrain_haltedBy halted
  | stored disabled | enabled disabled => rw [state] at disabled; cases disabled
  | drained running => rw [state] at running; cases running
  | halted _ _ before => exact absurd state before

/-- Settles O6: no step of the port but a reset leaves HALTED, and none writes the fault registers there. -/
theorem onlyAResetLeavesHalted : Obligations.OnlyAResetLeavesHalted := by
  intro c s t halted e power soft spelt
  rcases exec_portStep e with ⟨resets, -⟩ | step
  · cases c with
    | powerOnReset lines => exact absurd rfl (power lines)
    | softReset enable => exact absurd rfl (soft enable)
    | registerWrite offset v =>
      obtain ⟨rfl, reset⟩ := resets
      exact absurd rfl (spelt v reset)
    | _ => exact resets.elim
  · exact step.halted_stays ⟨halted, rfl, rfl⟩

end Sys2Proof.Machine
end

section
/-! SUPPORT. The fetches, the report writes and the register writes (Chapter 8, R184, R185): when each starts, and what its end
does. -/

namespace Sys2Proof.Machine

/-! ### Starts -/

/-- The conditions under which a fetch starts (R160), with the margin of R180 written out. -/
abbrev State.fetches (s : State) : Prop :=
  s.port.state = .running ∧ s.port.crHead ≠ s.port.crTail ∧ s.cmd.state = .idle ∧ s.port.fetch = none ∧
    s.reports.records.length + s.reports.reservations < 32

theorem fetchIfReady_starts {s : State} (fetches : s.fetches) : fetchIfReady s =
    { s with
      port := { s.port with fetch := some (s.port.crBase + BitVec.ofNat 32 (32 * s.port.crHead)) }
      reports := { s.reports with reservations := s.reports.reservations + 1 } } := by
  rw [fetchIfReady_eq, State.fetchStarted, if_pos fetches]

theorem fetchIfReady_waits {s : State} (waits : ¬ s.fetches) : fetchIfReady s = s := by
  rw [fetchIfReady_eq, State.fetchStarted, if_neg waits]

theorem writeIfReady_starts {s : State} {front : Report} {rest : List Report} (serving : s.port.state.serving)
    (records : s.reports.records = front :: rest) (landed : s.reports.write = none)
    (free : (s.port.rrTail + 1) % s.port.rrSize.toNat ≠ s.port.rrHead) : writeIfReady s =
    { s with reports := { s.reports with write := some ⟨s.port.rrBase + BitVec.ofNat 32 (32 * s.port.rrTail), s.port.rrTail,
        s.port.phase, front.bytes s.port.phase⟩ } } := by
  unfold writeIfReady State.frontWrite
  rw [records]
  dsimp only
  rw [if_pos ⟨serving, landed, free⟩]
  rfl

theorem writeIfReady_waits {s : State} (waits : s.reports.records = [] ∨ s.reports.write ≠ none ∨
    (s.port.rrTail + 1) % s.port.rrSize.toNat = s.port.rrHead) : writeIfReady s = s := by
  rcases writeIfReady_cases s with ⟨front, rest, records, -, landed, free, -⟩ | same
  · rcases waits with empty | flying | full
    · rw [records] at empty
      cases empty
    · exact absurd landed flying
    · exact absurd full free
  · exact same

/-! ### Fetches -/

theorem exec_fetchEnd_abandoned {s : State} (landed : s.port.fetch = none) (ending : BusEnd 256) :
    exec (.fetchEnd ending) s = .next s := congrArg Host.Outcome.next (if_pos landed)

theorem exec_fetchEnd_data {s : State} (flying : s.port.fetch ≠ none) (running : s.port.state = .running) (r : Record) :
    exec (.fetchEnd (.data r)) s = .next (takeCommand s r) :=
  congrArg Host.Outcome.next ((if_neg flying).trans (if_pos running))

theorem exec_fetchEnd_error {s : State} (flying : s.port.fetch ≠ none) (running : s.port.state = .running) :
    exec (.fetchEnd .error) s = .next (halt s .fetchError (entryAddress s.port.crBase s.port.crHead)) :=
  congrArg Host.Outcome.next ((if_neg flying).trans (if_pos running))

theorem exec_fetchEnd_stopped {s : State} (flying : s.port.fetch ≠ none) (stopped : s.port.state ≠ .running)
    (ending : BusEnd 256) : exec (.fetchEnd ending) s = .next (discardFetch s) :=
  congrArg Host.Outcome.next ((if_neg flying).trans (if_neg stopped))

theorem discardFetch_draining {s : State} (draining : s.port.state = .draining) : discardFetch s =
    { s with
      port := { s.port with
        state := if s.reports.records = [] ∧ s.reports.reservations ≤ 1 then .disabled else .draining
        fetch := none }
      reports := { s.reports with reservations := s.reports.reservations - 1 } } := by
  have done : s.reports.reservations - 1 = 0 ↔ s.reports.reservations ≤ 1 := by omega
  simp only [discardFetch, checkDrain, State.setReports_port, State.setPort_port, State.setReports_reports, draining, done,
    true_and, and_true]
  split
  · rfl
  · rw [← draining]
    rfl

/-- Settles O56: a fetch starts where it is ready, and ends in one of its three ways. -/
theorem fetchesStartAndEnd : Obligations.FetchesStartAndEnd := by
  intro s ready address
  refine ⟨fun fetches => congrArg Host.Outcome.next (fetchIfReady_starts fetches),
    fun waits => congrArg Host.Outcome.next (fetchIfReady_waits waits), exec_fetchEnd_abandoned, fun flying =>
    ⟨exec_fetchEnd_data flying, fun running =>
      ⟨_, exec_fetchEnd_error flying running, halt_haltedAs s _ _ ?_⟩, fun draining ending => ?_⟩⟩
  · rw [running]
    rintro ⟨⟩
  · have stopped : s.port.state ≠ .running := by rw [draining]; rintro ⟨⟩
    rw [exec_fetchEnd_stopped flying stopped, discardFetch_draining draining]

/-! ### Report writes -/

theorem exec_reportWriteEnd_abandoned {s : State} (landed : s.reports.write = none) (busError : Bool) :
    exec (.reportWriteEnd busError) s = .next s := congrArg Host.Outcome.next (if_pos landed)

theorem exec_reportWriteEnd_error {s : State} (flying : s.reports.write ≠ none) : exec (.reportWriteEnd true) s =
    .next (halt s .reportWriteError (entryAddress s.port.rrBase s.port.rrTail)) :=
  congrArg Host.Outcome.next (if_neg flying)

theorem exec_reportWriteEnd_done {s : State} (flying : s.reports.write ≠ none) :
    exec (.reportWriteEnd false) s = .next (recordWritten s) := congrArg Host.Outcome.next (if_neg flying)

/-- The count of a written record, with THRESHOLD 0 counting as 1 (R189). -/
theorem countWritten_eq (q : Irq) (now : Nat) : q.countWritten now =
    if q.status.reports then q
    else if max 1 q.threshold.toNat ≤ q.count + 1 then
      { q with status := { q.status with reports := true }, count := q.count + 1, start := none }
    else { q with count := q.count + 1, start := some (q.start.getD now) } := by
  have threshold : q.effectiveThreshold = max 1 q.threshold.toNat := by
    unfold Irq.effectiveThreshold
    split
    · next zero => rw [zero]; rfl
    · next positive =>
      have : q.threshold.toNat ≠ 0 := fun zero => positive (BitVec.eq_of_toNat_eq zero)
      omega
  rw [← threshold]
  rfl

/-- The write that starts when one has completed and left `rest` in the queue (R184). -/
def Port.nextWrite (p : Port) : List Report → Option ReportWrite
  | [] => none
  | front :: _ => if nextIndex p.rrTail p.rrSize = p.rrHead then none else some (p.writeOf front)

/-- The port once a record has been written: RR_TAIL has advanced, and the phase has flipped at its wrap (R185). -/
def Port.advanced (p : Port) : Port :=
  { p with
    rrTail := nextIndex p.rrTail p.rrSize
    phase := if nextIndex p.rrTail p.rrSize = 0 then !p.phase else p.phase }

/-- The part once a record has been written and the next write has started, before a fetch starts and the drain is checked. -/
def State.writtenOff (s : State) (rest : List Report) : State :=
  { s with
    port := s.port.advanced
    reports := { s.reports with records := rest, write := s.port.advanced.nextWrite rest }
    irq := s.irq.countWritten s.mono }

theorem frontWrite_eq {s : State} (serving : s.port.state.serving) (landed : s.reports.write = none) :
    s.frontWrite = s.port.nextWrite s.reports.records := by
  unfold State.frontWrite Port.nextWrite
  cases s.reports.records with
  | nil => exact landed
  | cons front rest =>
    dsimp only
    by_cases full : nextIndex s.port.rrTail s.port.rrSize = s.port.rrHead
    · rw [if_neg fun ready => ready.2.2 full, if_pos full, landed]
    · rw [if_pos ⟨serving, landed, full⟩, if_neg full]

theorem recordWritten_eq {s : State} {front : Report} {rest : List Report} (serving : s.port.state.serving)
    (records : s.reports.records = front :: rest) : recordWritten s = checkDrain (fetchIfReady (s.writtenOff rest)) := by
  obtain ⟨u, ue⟩ : ∃ u, u = ((s.setPort s.port.advanced).setReports { s.reports with records := rest, write := none }).setIrq
    (s.irq.countWritten s.mono) := ⟨_, rfl⟩
  have off : writeIfReady u = s.writtenOff rest := by
    have next : u.frontWrite = s.port.advanced.nextWrite rest := by
      rw [ue]
      exact frontWrite_eq serving rfl
    rw [writeIfReady, next, ue]
    rfl
  rw [← off, ue, recordWritten, records]
  rfl

/-- A drain is checked in DRAINING alone (R155). -/
theorem checkDrain_running {s : State} (running : s.port.state = .running) : checkDrain s = s := by
  refine if_neg fun drained => ?_
  rw [running] at drained
  cases drained.1

/-- Settles O57: a write starts where it is ready; its end is the record written off, then the fetch or the end of the drain. -/
theorem reportWritesStartAndEnd : Obligations.ReportWritesStartAndEnd := by
  intro s serving address tail
  have unhalted : s.port.state ≠ .halted := by rcases serving with e | e <;> rw [e] <;> rintro ⟨⟩
  refine ⟨fun waits => congrArg Host.Outcome.next (writeIfReady_waits waits), exec_reportWriteEnd_abandoned, fun flying =>
    ⟨_, exec_reportWriteEnd_error flying, halt_haltedAs s _ _ unhalted⟩, fun front rest records =>
    ⟨fun landed free => congrArg Host.Outcome.next (writeIfReady_starts serving records landed free), fun flying => ?_⟩⟩
  intro port fetches drained irq following written
  have off : s.writtenOff rest = written := by
    have count : s.irq.countWritten s.mono = irq := countWritten_eq s.irq s.time.mono
    have next : s.port.advanced.nextWrite rest = following := by cases rest <;> rfl
    rw [State.writtenOff, count, next]
    rfl
  have ends : exec (.reportWriteEnd false) s = .next (checkDrain (fetchIfReady written)) := by
    rw [exec_reportWriteEnd_done flying, recordWritten_eq serving records, off]
  refine ⟨fun fetch => ?_, fun drain => ?_, fun wait stay => ?_⟩
  · rw [ends, fetchIfReady_starts (s := written) fetch]
    exact congrArg Host.Outcome.next (checkDrain_running fetch.1)
  · have waits : ¬ written.fetches := fun fetch => absurd (fetch.1.symm.trans drain.1) (by rintro ⟨⟩)
    rw [ends, fetchIfReady_waits waits]
    exact congrArg Host.Outcome.next (if_pos drain)
  · rw [ends, fetchIfReady_waits (s := written) wait]
    exact congrArg Host.Outcome.next (if_neg stay)

/-! ### Register writes -/

theorem exec_crTailWrite_stored {s : State} {v : Word} (running : s.port.state = .running)
    (within : v.toNat < s.port.crSize.toNat) :
    exec (.crTailWrite v) s = .next (fetchIfReady (s.setPort { s.port with crTail := v.toNat })) :=
  congrArg Host.Outcome.next ((if_pos running).trans (if_pos within))

theorem exec_rrHeadWrite_stored {s : State} {v : Word} (serving : s.port.state.serving)
    (accepted : v.toNat < s.port.rrSize.toNat ∧ ringDistance s.port.rrHead v.toNat s.port.rrSize.toNat ≤
      ringDistance s.port.rrHead s.port.rrTail s.port.rrSize.toNat) :
    exec (.rrHeadWrite v) s = .next (writeIfReady (s.setPort { s.port with rrHead := v.toNat })) :=
  congrArg Host.Outcome.next ((if_pos serving).trans (if_pos accepted))

theorem exec_registerWrite_found {s : State} {v : Word} {offset : Nat} {r : Reg} (found : Reg.ofOffset offset = some r) :
    exec (.registerWrite offset v) s = .next (writeRegister s r v) := by
  show execRegisterWrite offset v s = _
  rw [execRegisterWrite, found]

theorem ofOffset_none {offset : Nat} (outside : 0x40 < offset ∨ offset % 4 ≠ 0) : Reg.ofOffset offset = none := by
  refine List.find?_eq_none.mpr fun r _ own => ?_
  have window : r.offset ≤ 0x40 ∧ r.offset % 4 = 0 := by cases r <;> decide
  rw [beq_iff_eq] at own
  omega

/-- A register that takes no write (R148, R150). -/
theorem readOnly_of_mem {offset : Nat} (mem : offset ∈ [0x00, 0x04, 0x0C, 0x10, 0x14, 0x24, 0x34]) (s : State) (v : Word) :
    exec (.registerWrite offset v) s = .next s := by
  fin_cases mem <;> rfl

/-- The ring registers are stored in DISABLED alone (R148). -/
theorem ring_of_mem {offset : Nat} (mem : offset ∈ [0x18, 0x1C, 0x28, 0x2C]) (s : State) (v : Word) :
    ∃ p, exec (.registerWrite offset v) s = .next (storeRing s p) := by
  fin_cases mem <;> exact ⟨_, rfl⟩

/-- Settles O60: each register's write, by its offset. -/
theorem registerWritesAreTaken : Obligations.RegisterWritesAreTaken := by
  intro s v
  refine ⟨?crTail, ?rrHead, fun disabled => ?stored, fun closed offset mem => ?kept, fun offset mem => readOnly_of_mem mem s v,
    ?control, rfl, rfl, rfl, rfl, rfl, fun offset outside => ?absent⟩
  case crTail =>
    intro starts
    refine ⟨fun running within => ?_, fun running beyond => ?_, fun stopped => congrArg Host.Outcome.next (if_neg stopped)⟩
    · rw [exec_crTailWrite_stored running within]
      refine ⟨fun waits => congrArg Host.Outcome.next ?_, fun ready => congrArg Host.Outcome.next ?_⟩
      · exact fetchIfReady_waits fun fetches => waits fetches.2
      · exact fetchIfReady_starts (s := s.setPort { s.port with crTail := v.toNat }) ⟨running, ready⟩
    · refine ⟨_, congrArg Host.Outcome.next ((if_pos running).trans (if_neg (not_lt.mpr beyond))), halt_haltedAs s _ _ ?_⟩
      rw [running]
      rintro ⟨⟩
  case rrHead =>
    intro size accepted serving tail
    refine ⟨fun serves accepts => ?_, fun serves refuses => ?_, fun stopped => congrArg Host.Outcome.next (if_neg stopped)⟩
    · rw [exec_rrHeadWrite_stored serves accepts]
      refine ⟨fun waits => congrArg Host.Outcome.next ?_, fun front rest records landed free => congrArg Host.Outcome.next ?_⟩
      · exact writeIfReady_waits waits
      · exact writeIfReady_starts (s := s.setPort { s.port with rrHead := v.toNat }) serves records landed free
    · refine ⟨_, congrArg Host.Outcome.next ((if_pos serves).trans (if_neg refuses)), halt_haltedAs s _ _ ?_⟩
      rcases serves with e | e <;> rw [e] <;> rintro ⟨⟩
  case stored =>
    have stores : ∀ p, storeRing s p = s.setPort p := fun p => if_pos disabled
    exact ⟨congrArg Host.Outcome.next (stores _), congrArg Host.Outcome.next (stores _), congrArg Host.Outcome.next (stores _),
      congrArg Host.Outcome.next (stores _)⟩
  case kept =>
    obtain ⟨p, ring⟩ := ring_of_mem mem s v
    rw [ring, storeRing, if_neg closed]
  case control =>
    rw [exec_registerWrite_found (r := .control) rfl, writeRegister]
    split
    · rfl
    · split <;> rfl
  case absent =>
    show execRegisterWrite offset v s = _
    rw [execRegisterWrite, ofOffset_none outside]

end Sys2Proof.Machine
end

section
/-! SUPPORT. The front of the queue, and the carry-outs of NOP, of an unknown opcode and of DEFINE_ACTION (R6, R167, R168,
R171). -/

namespace Sys2Proof.Machine

/-- Settles O1: a queue with a front command is the second branch of a step. -/
theorem stepRunsTheFrontCommand : Obligations.StepRunsTheFrontCommand := by
  intro c rest s front
  rw [step, front]
  rfl

theorem exec_badOpcode_unknown {s : State} {c : InHand} (hold : s.cmd.state = .holding c)
    (unknown : 0x12 < (byteAt c.record 0).toNat) : exec .badOpcode s = .next (s.answered c .badOpcode none .none) := by
  show execBadOpcode s = _
  rw [execBadOpcode, hold]
  dsimp only
  rw [InHand.opcode, if_pos unknown, refuseWith, finish_now]

/-- Settles O13: either owner leaves every block as it was and answers at once. -/
theorem nopAndUnknownOpcodeAreAnswered : Obligations.NopAndUnknownOpcodeAreAnswered :=
  fun _ _ hold => ⟨fun nop => carryOut_unchanged ⟨hold, nop⟩ rfl, exec_badOpcode_unknown hold⟩

/-- DEFINE_ACTION in hand: whether its 64 bytes can be addressed decides (R171). -/
theorem exec_defineAction_holds {s : State} {c : InHand} (hold : s.holds c 0x01) : exec .defineAction s = .next
    (if 2 ^ 32 < (le32 c.record 4).toNat + 64 then s.answered c .descriptorFault none .none
      else s.setCmd { s.cmd with state := .reading c }) := by
  show execDefineAction s = _
  obtain ⟨hand, opcode⟩ := hold
  rw [execDefineAction, hand]
  dsimp only
  rw [InHand.opcode, if_pos opcode, refuseWith, finish_now]
  rfl

/-- Settles O14: the two cases of the check of the descriptor address. -/
theorem defineActionIssuesTheRead : Obligations.DefineActionIssuesTheRead := by
  intro s c hold
  rw [exec_defineAction_holds hold]
  exact ⟨fun fits => congrArg Host.Outcome.next (if_neg (not_lt.mpr fits)),
    fun beyond => congrArg Host.Outcome.next (if_pos beyond)⟩

end Sys2Proof.Machine
end

section
/-! SUPPORT. The layout of the report records (R192, R197, tables 11.1, 11.5 and 11.6): every record is brought to one form, the
fields laid side by side from the lowest bit up, in which the bytes of Formats.lean and the layout of Safety.lean agree. -/

namespace Sys2Proof.Machine

/-! ### Fields -/

/-- A field of a record by its lowest bit, where `put` takes a byte. -/
def fieldAt {n : Nat} (bit : Nat) (v : BitVec n) : Record := v.setWidth 256 <<< bit

@[simp] theorem put_eq_fieldAt {n : Nat} (i : Nat) (v : BitVec n) : put i v = fieldAt (8 * i) v := rfl

theorem fieldAt_whole (r : Record) : fieldAt 0 r = r := by rw [fieldAt, BitVec.shiftLeft_zero, BitVec.setWidth_eq]

@[simp] theorem fieldAt_zero {n : Nat} (bit : Nat) : fieldAt bit (0#n) = 0#256 := by
  rw [fieldAt, BitVec.setWidth_zero, BitVec.zero_shiftLeft]

/-- Two values side by side are two fields. The width of the two together, which a layout writes as one number, is not looked at
when this is used to rewrite. -/
@[simp] theorem fieldAt_append {m n : Nat} (bit : Nat) (high : BitVec m) (low : BitVec n) :
    fieldAt bit (no_index (high ++ low)) = fieldAt bit low ||| fieldAt (bit + n) high := by
  ext k hk
  simp only [fieldAt, BitVec.getElem_shiftLeft, BitVec.getElem_or, BitVec.getElem_setWidth, BitVec.getLsbD_append]
  grind

/-- The order in which fields are joined is of no account. -/
theorem record_or_left_comm (x y z : Record) : x ||| (y ||| z) = y ||| (x ||| z) := by
  rw [← BitVec.or_assoc, BitVec.or_comm x y, BitVec.or_assoc]

/-- Two numbers packed into one field, the first in its low bits. -/
theorem fieldAt_ofNat_packed {m n w : Nat} (width : n + m = w) (bit : Nat) {low : Nat} (fits : low < 2 ^ m) (high : Nat) :
    fieldAt bit (BitVec.ofNat w (low + 2 ^ m * high)) =
      fieldAt bit (BitVec.ofNat m low) ||| fieldAt (bit + m) (BitVec.ofNat n high) := by
  subst width
  rw [← fieldAt_append]
  congr 1
  refine BitVec.eq_of_getLsbD_eq fun k inside => ?_
  rw [BitVec.getLsbD_append, BitVec.getLsbD_ofNat, Nat.add_comm low, Nat.testBit_two_pow_mul_add _ fits]
  simp only [BitVec.getLsbD_ofNat]
  grind

/-- A small value needs only the low bits of its field. -/
theorem fieldAt_ofNat_narrowed {m n v : Nat} (bit : Nat) (small : v < 2 ^ m) (le : m ≤ n) :
    fieldAt bit (BitVec.ofNat n v) = fieldAt bit (BitVec.ofNat m v) := by
  have wide : v < 2 ^ n := small.trans_le (Nat.pow_le_pow_right (by decide) le)
  unfold fieldAt
  congr 1
  refine BitVec.eq_of_toNat_eq ?_
  simp only [BitVec.toNat_setWidth, BitVec.toNat_ofNat, Nat.mod_eq_of_lt wide, Nat.mod_eq_of_lt small]

/-- A byte that holds a small number in its low bits and another number above it. -/
theorem put8_packed {m n : Nat} (width : n + m = 8) (i : Nat) {low : Nat} (fits : low < 2 ^ m) (high : Nat) :
    put8 i (low + 2 ^ m * high) = fieldAt (8 * i) (BitVec.ofNat m low) ||| fieldAt (8 * i + m) (BitVec.ofNat n high) :=
  fieldAt_ofNat_packed width _ fits high

/-- A byte whose low bits are 0. -/
theorem put8_raised {m n : Nat} (width : n + m = 8) (i high : Nat) :
    put8 i (2 ^ m * high) = fieldAt (8 * i + m) (BitVec.ofNat n high) := by
  have packed := put8_packed width i (Nat.two_pow_pos m) high
  rwa [Nat.zero_add, fieldAt_zero, BitVec.zero_or] at packed

@[simp] theorem put8_eq_fieldAt (i v : Nat) : put8 i v = fieldAt (8 * i) (BitVec.ofNat 8 v) := rfl
@[simp] theorem put16_eq_fieldAt (i v : Nat) : put16 i v = fieldAt (8 * i) (BitVec.ofNat 16 v) := rfl
@[simp] theorem put32_eq_fieldAt (i v : Nat) : put32 i v = fieldAt (8 * i) (BitVec.ofNat 32 v) := rfl
@[simp] theorem put64_eq_fieldAt (i v : Nat) : put64 i v = fieldAt (8 * i) (BitVec.ofNat 64 v) := rfl
@[simp] theorem putInt32_eq_fieldAt (i : Nat) (v : Int) : putInt32 i v = fieldAt (8 * i) (BitVec.ofInt 32 v) := rfl
@[simp] theorem putInt64_eq_fieldAt (i : Nat) (v : Int) : putInt64 i v = fieldAt (8 * i) (BitVec.ofInt 64 v) := rfl

@[simp] theorem putInstant_eq_fieldAt (i : Nat) (x : Option Nat) : putInstant i x = fieldAt (8 * i) (layoutInstant x) := by
  cases x <;> rfl

@[simp] theorem putHandle_eq_fieldAt (i : Nat) (h : Handle) : putHandle i h = fieldAt (8 * i) h.layout := by
  rw [Handle.layout, fieldAt_append]
  rfl

@[simp] theorem putFlag_eq_fieldAt (i : Nat) {bit : Nat} (inside : bit < 8) (b : Bool) :
    putFlag i bit b = fieldAt (8 * i + bit) (BitVec.ofBool b) := by
  have one : fieldAt (8 * i + bit) (BitVec.ofNat (8 - bit) b.toNat) = fieldAt (8 * i + bit) (BitVec.ofNat 1 b.toNat) :=
    fieldAt_ofNat_narrowed _ (by cases b <;> decide) (by omega)
  rw [putFlag, Nat.mul_comm, put8_raised (Nat.sub_add_cancel inside.le), one]
  cases b <;> rfl

/-! ### Codes and bits (table 11.1) -/

@[simp] theorem SlotState.code_eq_layout (x : SlotState) : x.code = x.layout := by cases x <;> rfl
@[simp] theorem DiscState.code_eq_layout (x : DiscState) : x.code = x.layout := by cases x <;> rfl
theorem WallState.code_eq_layout (x : WallState) : x.code = x.layout := by cases x <;> rfl
@[simp] theorem ChanState.code_eq_layout (x : ChanState) : x.code = x.layout := by cases x <;> rfl
theorem Admission.code_eq_layout (x : Admission) : x.code = x.layout := by cases x <;> rfl
theorem EndReason.code_eq_layout (x : EndReason) : x.code = x.layout := by cases x <;> rfl
theorem FollowOutcome.code_eq_layout (x : FollowOutcome) : x.code = x.layout := by cases x <;> rfl
@[simp] theorem Status.code_eq_layout (x : Status) : x.code = x.layout := by cases x <;> rfl

theorem DiscState.layout_lt (x : DiscState) : x.layout < 2 ^ 2 := by cases x <;> decide
theorem WallState.layout_lt (x : WallState) : x.layout < 2 ^ 2 := by cases x <;> decide
theorem Admission.layout_lt (x : Admission) : x.layout < 2 ^ 3 := by cases x <;> decide
theorem EndReason.layout_lt (x : EndReason) : x.layout < 2 ^ 2 := by cases x <;> decide
theorem FollowOutcome.layout_lt (x : FollowOutcome) : x.layout < 2 ^ 3 := by cases x <;> decide

@[simp] theorem Due.ofBool_onWall (d : Due) : BitVec.ofBool d.onWall = d.layout := by
  rw [Due.onWall, beq_eq_decide, Due.layout]

@[simp] theorem ofBool_any_onWall (due : Option Due) :
    BitVec.ofBool (due.any Due.onWall) = (due.map Due.layout).getD 0 := by
  cases due with
  | none => rfl
  | some d => exact d.ofBool_onWall

@[simp] theorem Remaining.ofBool_isUnlimited (r : Remaining) : BitVec.ofBool r.isUnlimited = r.layout.1 := by cases r <;> rfl

@[simp] theorem Remaining.ofNat_field (r : Remaining) : BitVec.ofNat 16 r.field = r.layout.2 := by cases r <;> rfl

@[simp] theorem ofBool_beq_high (l : Level) : BitVec.ofBool (l == .high) = layoutLevel l := by rw [layoutLevel, beq_eq_decide]

@[simp] theorem putLastEdge_eq_fieldAt (e : Option LastEdge) :
    putLastEdge e = fieldAt 73 (layoutEdge e).1 ||| fieldAt 128 (layoutEdge e).2 := by
  cases e with
  | none =>
    have clear : fieldAt 73 (layoutEdge none).1 = 0 := fieldAt_zero 73
    rw [clear]
    exact BitVec.zero_or.symm
  | some x =>
    rw [putLastEdge, putFlag_eq_fieldAt 9 (by decide), beq_eq_decide]
    rfl

/-! ### Fields of several parts -/

/-- The status byte of READ_TIME: the wall state in bits 0 and 1, the discipline state in bits 2 and 3 (table 11.6). -/
theorem put8_states (w : WallState) (d : DiscState) : put8 8 (w.code + 4 * d.code) =
    fieldAt 64 (BitVec.ofNat 2 w.layout) ||| fieldAt 66 (BitVec.ofNat 2 d.layout) := by
  rw [w.code_eq_layout, d.code_eq_layout, ← fieldAt_ofNat_narrowed (n := 6) 66 d.layout_lt (by decide)]
  exact put8_packed rfl 8 w.layout_lt _

/-- The end reason in bits 1 and 2 of byte 1, and the outcome of the follow-on request in bits 4 to 6 (table 11.5). -/
theorem put8_ending (e : EndReason) (f : FollowOutcome) : put8 1 (2 * e.code + 16 * f.code) =
    fieldAt 9 (BitVec.ofNat 2 e.layout) ||| fieldAt 12 (BitVec.ofNat 3 f.layout) := by
  have regroup : 2 * e.layout + 16 * f.layout = 2 ^ 1 * (e.layout + 2 ^ 3 * f.layout) := by ring
  have small : e.layout < 2 ^ 3 := e.layout_lt.trans (by decide)
  rw [e.code_eq_layout, f.code_eq_layout, regroup, put8_raised (n := 7) rfl,
    fieldAt_ofNat_packed (m := 3) (n := 4) rfl _ small, fieldAt_ofNat_narrowed _ e.layout_lt (by decide),
    fieldAt_ofNat_narrowed _ f.layout_lt (by decide)]

/-- The admission outcome in bits 5 to 7 of byte 1 (table 11.5). -/
theorem put8_admission (x : Admission) : put8 1 (32 * x.code) = fieldAt 13 (BitVec.ofNat 3 x.layout) := by
  rw [x.code_eq_layout]
  exact put8_raised (m := 5) rfl 1 _

/-- The ring index in the low twelve bits of bytes 6 and 7, and the field number above it (table 11.6). -/
theorem put16_ringIndex (index number : Nat) : put16 6 (index % 4096 + 4096 * number) =
    fieldAt 48 (BitVec.ofNat 12 index) ||| fieldAt 60 (BitVec.ofNat 4 number) := by
  have low : BitVec.ofNat 12 (index % 4096) = BitVec.ofNat 12 index := BitVec.eq_of_toNat_eq (Nat.mod_mod _ _)
  rw [← low]
  exact fieldAt_ofNat_packed (m := 12) (n := 4) rfl 48 (Nat.mod_lt _ (by decide)) number

/-- The wall bytes of READ_TIME: the calendar of the wall instant, and the instant (R72). -/
theorem putWallTime_some (wall : Nat) :
    let c := calendarOfSecond (wall / 2 ^ 20)
    putWallTime (some wall) = fieldAt 68 (BitVec.ofNat 4 c.weekday) ||| fieldAt 72 (BitVec.ofNat 8 c.month)
      ||| fieldAt 80 (BitVec.ofNat 8 c.day) ||| fieldAt 88 (BitVec.ofNat 8 c.hour) ||| fieldAt 96 (BitVec.ofNat 8 c.minute)
      ||| fieldAt 104 (BitVec.ofNat 8 c.second) ||| fieldAt 112 (BitVec.ofNat 16 c.year)
      ||| fieldAt 192 (layoutInstant (some wall)) := by
  intro c
  have weekday : put8 8 (16 * c.weekday) = fieldAt 68 (BitVec.ofNat 4 c.weekday) := put8_raised (m := 4) rfl 8 _
  rw [← weekday]
  rfl

/-- Without wall time every bit of both is set, and the weekday is 0 (R72, R192). -/
theorem putWallTime_none : putWallTime none = fieldAt 72 (BitVec.allOnes 56) ||| fieldAt 192 (layoutInstant none) := by
  decide

/-- The first handle of the rest of a list, and those behind it. -/
theorem putHandles_tail (i : Nat) (hs : List Handle) :
    putHandles i hs = fieldAt (8 * i) ((hs[0]?.map Handle.layout).getD 0) ||| putHandles (i + 2) hs.tail := by
  cases hs with
  | nil => exact (congrArg (· ||| (0 : Record)) (fieldAt_zero (8 * i))).symm
  | cons h hs => exact congrArg (· ||| putHandles (i + 2) hs) (putHandle_eq_fieldAt i h)

/-- The waiting handles of CHANNEL_STATUS, eight at most, at bytes 14 to 29 (table 11.6). -/
theorem putHandles_eq_fieldAt {hs : List Handle} (room : hs.length ≤ 8) :
    let waiting (k : Nat) : BitVec 16 := (hs[k]?.map Handle.layout).getD 0
    putHandles 14 hs = fieldAt 112 (waiting 0) ||| (fieldAt 128 (waiting 1) ||| (fieldAt 144 (waiting 2) |||
      (fieldAt 160 (waiting 3) ||| (fieldAt 176 (waiting 4) ||| (fieldAt 192 (waiting 5) |||
        (fieldAt 208 (waiting 6) ||| fieldAt 224 (waiting 7))))))) := by
  have last : hs.tail.tail.tail.tail.tail.tail.tail.tail = [] :=
    List.eq_nil_of_length_eq_zero (by simp only [List.length_tail]; omega)
  iterate 8 rw [putHandles_tail]
  simp only [List.getElem?_tail, last, putHandles, BitVec.ofNat_eq_ofNat, BitVec.or_zero]

/-! ### Completions (table 11.6) -/

/-! Where the bytes do not name the fields from the lowest bit up, both sides are put in one order. A constant beside bits that
are 0 is kept apart from them, as the field that the bytes name. -/

theorem bytes_time (t : TimeResult) : (Results.time t).bytes = fieldAt 64 (Results.time t).layout := by
  obtain ⟨mono, wall, state, disc⟩ := t
  rw [Results.bytes, put8_states]
  cases wall with
  | none =>
    rw [putWallTime_none]
    simp [Results.layout, BitVec.or_assoc, BitVec.or_comm, record_or_left_comm]
  | some w =>
    rw [putWallTime_some]
    simp [Results.layout, BitVec.or_assoc, BitVec.or_comm, record_or_left_comm]

theorem bytes_queried (q : QueryResult)
    (room : ∀ waiting running, q.counts = some (waiting, running) → waiting ≤ 8) :
    (Results.queried q).bytes = fieldAt 64 (Results.queried q).layout := by
  cases counts : q.counts with
  | none => cases fired : q.lastFired <;> simp [Results.bytes, Results.layout, counts, fired, BitVec.or_assoc]
  | some instances =>
    have small : instances.1 < 2 ^ 4 := (room instances.1 instances.2 counts).trans_lt (by decide)
    have narrowed := fieldAt_ofNat_narrowed (n := 8) 88 small (by decide)
    cases fired : q.lastFired <;> simp [Results.bytes, Results.layout, counts, fired, narrowed, BitVec.or_assoc]

theorem bytes_channelRead (c : ChannelResult) (room : c.waiting.length ≤ 8) :
    (Results.channelRead c).bytes = fieldAt 64 (Results.channelRead c).layout := by
  cases running : c.running <;>
    simp [Results.bytes, Results.layout, running, putHandles_eq_fieldAt room, BitVec.or_assoc]

theorem Results.bytes_eq_layout (r : Results)
    (counts : ∀ q waiting running, r = .queried q → q.counts = some (waiting, running) → waiting ≤ 8)
    (queue : ∀ q, r = .channelRead q → q.waiting.length ≤ 8) : r.bytes = fieldAt 64 r.layout := by
  cases r with
  | time t => exact bytes_time t
  | queried q => exact bytes_queried q fun waiting running => counts q waiting running rfl
  | channelRead c => exact bytes_channelRead c (queue c rfl)
  | captureSet on line count last =>
    simp [Results.bytes, Results.layout, BitVec.or_assoc, BitVec.or_comm, record_or_left_comm]
  | captureRead line count last waiting =>
    simp [Results.bytes, Results.layout, BitVec.or_assoc, BitVec.or_comm, record_or_left_comm]
  | _ => simp [Results.bytes, Results.layout, BitVec.or_assoc, -BitVec.reduceAppend]

/-! ### Event reports (table 11.5) -/

theorem Occurrence.bytes_eq_layout (o : Occurrence) : o.bytes = fieldAt 10 (BitVec.ofBool o.last) |||
    (fieldAt 11 o.due.layout ||| (fieldAt 12 o.remaining.layout.1 ||| fieldAt 16 o.layout)) := by
  simp [Occurrence.bytes, Occurrence.layout, BitVec.or_assoc]

theorem bytes_completion (c : Completion) (phase : Bool) (results : c.results.bytes = fieldAt 64 c.results.layout) :
    (Report.completion c).bytes phase = fieldAt 0 ((Report.completion c).layout phase) := by
  rw [Report.bytes, Report.fields, put16_ringIndex]
  simp [Report.kind, Report.layout, results, BitVec.or_assoc]

theorem bytes_fire (o : Occurrence) (late : Bool) (admission : Admission) (phase : Bool) :
    (Report.fire o late admission).bytes phase = fieldAt 0 ((Report.fire o late admission).layout phase) := by
  rw [Report.bytes, Report.fields, put8_admission, o.bytes_eq_layout]
  simp [Report.kind, Report.layout, BitVec.or_assoc, BitVec.or_comm, record_or_left_comm]

theorem bytes_skip (o : Occurrence) (phase : Bool) :
    (Report.skip o).bytes phase = fieldAt 0 ((Report.skip o).layout phase) := by
  rw [Report.bytes, Report.fields, o.bytes_eq_layout]
  simp [Report.kind, Report.layout, BitVec.or_assoc]

theorem bytes_done (d : DoneReport) (phase : Bool) :
    (Report.done d).bytes phase = fieldAt 0 ((Report.done d).layout phase) := by
  rw [Report.bytes, Report.fields, put8_ending]
  cases channel : d.channel <;> simp [Report.kind, Report.layout, channel, BitVec.or_assoc, -BitVec.reduceAppend]

/-- Settles O54: the bytes of each kind and its layout are the same fields side by side. The last four kinds pack no byte and
name their fields in the order of the layout. -/
theorem reportRecordsCarryKindPhaseAndCommonFields : Obligations.ReportRecordsCarryKindPhaseAndCommonFields := by
  intro r phase counts queue
  rw [← fieldAt_whole (r.layout phase)]
  cases r with
  | completion c =>
    exact bytes_completion c phase (c.results.bytes_eq_layout (fun q waiting running => counts c q waiting running rfl)
      fun q => queue c q rfl)
  | fire o late admission => exact bytes_fire o late admission phase
  | skip o => exact bytes_skip o phase
  | done d => exact bytes_done d phase
  | capture | reference | wallLost | overflow =>
    simp [Report.bytes, Report.fields, Report.kind, Report.layout, beq_eq_decide, BitVec.or_assoc]

end Sys2Proof.Machine
end

section
/-! SUPPORT. The offer of an event report, and the interrupt unit (sections 10.2 and 10.6). -/

namespace Sys2Proof.Machine

/-! ### The offer of an event report -/

/-- A drop counts the report, the count staying at 65,535 once there; LOSS is set at the first (R182, R187). -/
theorem dropReport_eq (s : State) : dropReport s =
    { s with
      reports := { s.reports with lost := min 65535 (s.reports.lost + 1) }
      irq := if s.reports.lost = 0 then s.irq.setLoss else s.irq } := by
  by_cases first : s.reports.lost = 0
  · rw [dropReport, if_pos first, if_pos first]; rfl
  · rw [dropReport, if_neg first, if_neg first]; rfl

theorem offer_dropped {s : State} (r : Report) (shut : s.port.state ≠ .running ∨ s.reports.margin = 0) :
    offer s r = dropReport s :=
  if_neg fun ⟨running, room⟩ => shut.elim (· running) (by omega)

theorem offer_accepted {s : State} (r : Report) (running : s.port.state = .running) (room : 1 ≤ s.reports.margin)
    (unlost : s.reports.lost = 0) : offer s r = s.append r := by
  rw [offer, if_pos ⟨running, room⟩, if_pos unlost]

/-- The part once an OVERFLOW record has told of the reports lost (R183). -/
def State.toldOfLosses (s : State) : State := (s.append (.overflow s.reports.lost s.mono)).setLost 0

/-- Where two places are open, the report follows the OVERFLOW record (R183). -/
theorem offer_accepted_told {s : State} (r : Report) (running : s.port.state = .running) (room : 2 ≤ s.reports.margin)
    (lost : 0 < s.reports.lost) : offer s r = s.toldOfLosses.append r := by
  rw [offer, if_pos ⟨running, le_trans (by decide) room⟩, if_neg lost.ne']
  exact if_pos room

/-- The OVERFLOW record takes the last place, and the report is dropped behind it (R183). -/
theorem offer_dropped_told {s : State} (r : Report) (running : s.port.state = .running) (last : s.reports.margin = 1)
    (lost : 0 < s.reports.lost) : offer s r = dropReport s.toldOfLosses := by
  rw [offer, if_pos ⟨running, last.ge⟩, if_neg lost.ne']
  exact if_neg (by rw [last]; decide)

theorem State.toldOfLosses_append (s : State) (r : Report) : s.toldOfLosses.append r = { s with reports :=
    { s.reports with records := s.reports.records ++ [.overflow s.reports.lost s.time.mono, r], lost := 0 } } := by
  simp [State.toldOfLosses, State.append, State.setLost, State.setReports, State.mono]

/-- Settles O53, by the port state, the margin and the lost count. A report dropped behind an OVERFLOW record is the first of
a new count. -/
theorem offerFollowsTheMargin : Obligations.OfferFollowsTheMargin := by
  intro s r margin loss
  refine ⟨fun shut => ?dropped, fun running room unlost => ?accepted, fun running room lost => ?acceptedTold,
    fun running last lost => ?droppedTold⟩
  case dropped => rw [offer_dropped r shut, dropReport_eq]; rfl
  case accepted => rw [offer_accepted r running room unlost]; rfl
  case acceptedTold => rw [offer_accepted_told r running room lost, State.toldOfLosses_append]
  case droppedTold => rw [offer_dropped_told r running last lost, dropReport_eq]; rfl

/-! ### The moderation of REPORTS -/

/-- THRESHOLD 0 counts as 1 (R189). -/
theorem Irq.effectiveThreshold_eq (q : Irq) : q.effectiveThreshold = max 1 q.threshold.toNat := by
  unfold Irq.effectiveThreshold
  split
  · next zero => rw [zero]; rfl
  · next positive =>
    have : q.threshold.toNat ≠ 0 := fun zero => positive (BitVec.eq_of_toNat_eq zero)
    omega

theorem Irq.expiry_eq_some_iff (q : Irq) (t : Nat) : q.expiry = some t ↔
    ∃ start, q.start = some start ∧ q.time ≠ 0 ∧ start + q.time.toNat * 1024 = t := by
  unfold Irq.expiry
  cases q.start <;> simp

theorem Irq.expired_iff (q : Irq) (now : Nat) : q.expired now = true ↔ q.status.reports = false ∧
    ∃ start, q.start = some start ∧ q.time ≠ 0 ∧ start + q.time.toNat * 1024 ≤ now := by
  have passed : q.expired now = true ↔ q.status.reports = false ∧ ∃ t, q.expiry = some t ∧ t ≤ now := by
    unfold Irq.expired
    cases q.expiry <;> simp
  simp only [passed, q.expiry_eq_some_iff]
  exact and_congr_right fun _ =>
    ⟨fun ⟨_, ⟨start, started, time, reach⟩, le⟩ => ⟨start, started, time, reach.trans_le le⟩,
      fun ⟨start, started, time, le⟩ => ⟨_, ⟨start, started, time, rfl⟩, le⟩⟩

/-- The moderation stored by a write to INT_MODERATION, before count and start are judged (R190). -/
def Irq.stored (q : Irq) (w : Word) : Irq :=
  { q with threshold := BitVec.ofNat 8 w.toNat, time := BitVec.ofNat 16 (w.toNat / 2 ^ 16) }

theorem Irq.writeModeration_eq (q : Irq) (w : Word) (now : Nat) : q.writeModeration w now =
    if q.status.reports then q.stored w
    else if (q.stored w).effectiveThreshold ≤ q.count ∨ (q.stored w).expired now then (q.stored w).setReports
    else q.stored w := by
  have fields : ({ q with threshold := w.extractLsb' 0 8, time := w.extractLsb' 16 16 } : Irq) = q.stored w := by
    simp [Irq.stored, BitVec.extractLsb', Nat.shiftRight_eq_div_pow]
  rw [Irq.writeModeration, fields]
  rfl

theorem Irq.stored_effectiveThreshold (q : Irq) (w : Word) : (q.stored w).effectiveThreshold = max 1 (w.toNat % 256) := by
  rw [Irq.effectiveThreshold_eq]
  rfl

/-- TIME is the upper half of the word written. -/
theorem Irq.stored_time_toNat (q : Irq) (w : Word) : (q.stored w).time.toNat = w.toNat / 2 ^ 16 := by
  have upper : w.toNat / 2 ^ 16 < 2 ^ 16 := by have := w.isLt; omega
  exact Nat.mod_eq_of_lt upper

theorem Irq.stored_expired_iff {q : Irq} (clear : q.status.reports = false) (w : Word) (now : Nat) :
    (q.stored w).expired now = true ↔
      ∃ start, q.start = some start ∧ w.toNat / 2 ^ 16 ≠ 0 ∧ start + w.toNat / 2 ^ 16 * 1024 ≤ now := by
  have kept : (q.stored w).status.reports = false := clear
  rw [Irq.expired_iff, and_iff_right kept]
  simp only [ne_eq, ← BitVec.toNat_inj, q.stored_time_toNat w]
  rfl

/-- What the words of R189 and R190 ask of the values stored is what the model judges. -/
theorem Irq.stored_reached_iff {q : Irq} (clear : q.status.reports = false) (w : Word) (now : Nat) :
    ((q.stored w).effectiveThreshold ≤ q.count ∨ (q.stored w).expired now = true) ↔
      (max 1 (w.toNat % 256) ≤ q.count ∨
        ∃ start, q.start = some start ∧ w.toNat / 2 ^ 16 ≠ 0 ∧ start + w.toNat / 2 ^ 16 * 1024 ≤ now) := by
  rw [Irq.stored_effectiveThreshold, Irq.stored_expired_iff clear]

theorem Irq.line_high_iff (q : Irq) : q.line = .high ↔ (q.status.reports = true ∧ q.enable.reports = true) ∨
    (q.status.loss = true ∧ q.enable.loss = true) ∨ (q.status.fault = true ∧ q.enable.fault = true) := by
  unfold Irq.line
  split
  · next on => simpa [or_assoc] using on
  · next off => simpa [or_assoc] using off

/-! ### The commands of the interrupt unit -/

theorem exec_intModerationWrite (w : Word) (s : State) :
    exec (.intModerationWrite w) s = .next (s.setIrq (s.irq.writeModeration w s.mono)) := rfl

/-- The expiry sets REPORTS where mono time runs and has reached it (R189). -/
theorem exec_moderationExpiry_due {s : State} (runs : s.time.exhausted = false) (due : s.irq.expired s.mono = true) :
    exec .moderationExpiry s = .next (s.setIrq s.irq.setReports) :=
  congrArg Host.Outcome.next (if_pos (by simp [runs, due]))

/-- Settles O55: the writes are the unit's own; REPORTS set leaves what INT_MODERATION stores unjudged. -/
theorem interruptRegistersAreWritten : Obligations.InterruptRegistersAreWritten := by
  intro s v
  refine ⟨rfl, rfl, ⟨fun quiet => ?_, fun clear reached => ?_⟩, fun runs clear start started time passed => ?_,
    s.irq.line_high_iff⟩
  · rw [exec_intModerationWrite, Irq.writeModeration_eq]
    cases clear : s.irq.status.reports with
    | true => rfl
    | false =>
      have unreached := quiet.resolve_left (by simp [clear])
      rw [if_neg (by decide), if_neg (mt (Irq.stored_reached_iff clear v s.mono).mp unreached)]
      rfl
  · rw [exec_intModerationWrite, Irq.writeModeration_eq, if_neg (by simp [clear]),
      if_pos ((Irq.stored_reached_iff clear v s.mono).mpr reached)]
    rfl
  · exact exec_moderationExpiry_due runs ((s.irq.expired_iff s.mono).mpr ⟨clear, start, started, time, passed⟩)

end Sys2Proof.Machine
end
